-- ==== Sys2Proof/Word.lean ====
section
/-! DEFINITION. The bit-vector widths of the register window and of the wire (00_scope.md R5, R6, R8; 10_state.md section 1). -/

namespace Sys2Proof

/-- A byte of the wire, of the scan target and of IMM8. -/
abbrev Byte := BitVec 8

/-- A CRC register value (R5: "The checksum is 16 bits wide"). -/
abbrev Half := BitVec 16

/-- A register of the window, a command word, a budget, a diagnostic counter (00_scope.md section 3). -/
abbrev Word := BitVec 32

/-- ARG, the image length, the chunk index and the payload offset (R4, R6, D48). -/
abbrev DWord := BitVec 64

end Sys2Proof
end

