-- ==== Sys2Proof/Syntax.lean ====
section
/-! DEFINITION. The sixteen commands of 30_encoding.md R84, one constructor per row of the opcode table. Wide operands
are not part of a command: they stand in ARG (R83). -/

namespace Sys2Proof

/-- A command. `b` is a data byte and `k` a token kind, both the IMM8 field (R82). -/
inductive Instr where
  | nop
  | crcInit
  | crcByte (b : Byte)
  | tokEmit (k : Byte)
  | scnTok (k : Byte)
  | scnClr
  | scnPush (b : Byte)
  | scnRun
  | scnRunb
  | arbSend
  | arbRecv
  | arbAlloc
  | arbNoalloc
  | rxTake
  | arbClear
  | txByte (b : Byte)
  deriving DecidableEq, Repr

end Sys2Proof
end

