-- ==== Sys2Proof/WellFormed.lean ====
section
/-! DEFINITION. Which command terms have an encoding: a token kind is 0, 1 or 2 (R82). -/

namespace Sys2Proof

/-- Kinds 3 to 255 are illegal (R82, BAD_KIND); every data byte is legal. -/
def Instr.wf : Instr → Bool
  | .tokEmit k => decide (k.toNat ≤ 2)
  | .scnTok k => decide (k.toNat ≤ 2)
  | .nop => true
  | .crcInit => true
  | .crcByte _ => true
  | .scnClr => true
  | .scnPush _ => true
  | .scnRun => true
  | .scnRunb => true
  | .arbSend => true
  | .arbRecv => true
  | .arbAlloc => true
  | .arbNoalloc => true
  | .rxTake => true
  | .arbClear => true
  | .txByte _ => true

end Sys2Proof
end

