-- ==== Sys2Proof/Decode.lean ====
section
/-! DEFINITION. Command words to commands and back (30_encoding.md R80 to R87). -/

namespace Sys2Proof

/-- RSV, bits [31:16] of a command word (R80). -/
def rsvField (w : Word) : BitVec 16 := w.extractLsb' 16 16

/-- IMM8, bits [15:8] of a command word (R80). -/
def immField (w : Word) : Byte := w.extractLsb' 8 8

/-- OP, bits [7:0] of a command word (R80). -/
def opField (w : Word) : Byte := w.extractLsb' 0 8

/-- The decoder's three refusals, by name (R85). -/
inductive DecodeError where
  | reservedBits
  | badOpcode
  | badKind
  deriving DecidableEq, Repr

/-- Format N: IMM8 must be 0 (R81, third check of R85). -/
def decodeN (imm : Byte) (i : Instr) : Except DecodeError Instr :=
  if imm = 0 then .ok i else .error .reservedBits

/-- Format I with a data byte: every IMM8 is an operand (R81, R82). -/
def decodeI (imm : Byte) (f : Byte → Instr) : Except DecodeError Instr :=
  .ok (f imm)

/-- Format I with a token kind: the fourth check of R85. -/
def decodeKind (imm : Byte) (f : Byte → Instr) : Except DecodeError Instr :=
  if imm.toNat ≤ 2 then .ok (f imm) else .error .badKind

/-- The opcode map of R84: what the opcode and IMM8 of a word with RSV = 0 stand for. -/
def decodeFields (op imm : Byte) : Except DecodeError Instr :=
  match op.toNat with
  | 0x00 => decodeN imm .nop
  | 0x10 => decodeN imm .crcInit
  | 0x11 => decodeI imm .crcByte
  | 0x20 => decodeKind imm .tokEmit
  | 0x21 => decodeKind imm .scnTok
  | 0x22 => decodeN imm .scnClr
  | 0x23 => decodeI imm .scnPush
  | 0x24 => decodeN imm .scnRun
  | 0x25 => decodeN imm .scnRunb
  | 0x30 => decodeN imm .arbSend
  | 0x31 => decodeN imm .arbRecv
  | 0x32 => decodeN imm .arbAlloc
  | 0x33 => decodeN imm .arbNoalloc
  | 0x34 => decodeN imm .rxTake
  | 0x35 => decodeN imm .arbClear
  | 0x36 => decodeI imm .txByte
  | _ => .error .badOpcode

/-- The decoder, total over all 2^32 words, its checks in the order of R85. -/
def decode (w : Word) : Except DecodeError Instr :=
  if rsvField w = 0 then decodeFields (opField w) (immField w) else .error .reservedBits

/-- A command word `{RSV = 0, IMM8, OP}` (R80): `(IMM8 << 8) OR OP` (R84). -/
def commandWord (op imm : Byte) : Word := (imm.setWidth 32 <<< 8) ||| op.setWidth 32

/-- The opcode of a command (R84). -/
def Instr.opcode : Instr → Byte
  | .nop => 0x00
  | .crcInit => 0x10
  | .crcByte _ => 0x11
  | .tokEmit _ => 0x20
  | .scnTok _ => 0x21
  | .scnClr => 0x22
  | .scnPush _ => 0x23
  | .scnRun => 0x24
  | .scnRunb => 0x25
  | .arbSend => 0x30
  | .arbRecv => 0x31
  | .arbAlloc => 0x32
  | .arbNoalloc => 0x33
  | .rxTake => 0x34
  | .arbClear => 0x35
  | .txByte _ => 0x36

/-- The immediate of a command: its operand in format I, 0 in format N (R81). -/
def Instr.imm8 : Instr → Byte
  | .crcByte b => b
  | .tokEmit k => k
  | .scnTok k => k
  | .scnPush b => b
  | .txByte b => b
  | .nop => 0
  | .crcInit => 0
  | .scnClr => 0
  | .scnRun => 0
  | .scnRunb => 0
  | .arbSend => 0
  | .arbRecv => 0
  | .arbAlloc => 0
  | .arbNoalloc => 0
  | .rxTake => 0
  | .arbClear => 0

/-- The command word of a command (R80, R81, R84). -/
def encode (i : Instr) : Word := commandWord i.opcode i.imm8

/-- The command in a word numbered as the opcode table numbers it: bit 0 is the least significant bit of the one 32-bit
word, and every bit from `nbits` on is 0. No command is longer than one word (R80). -/
def decodeTableWord (nbits w : Nat) : Option Instr :=
  if nbits ≤ 32 then (decode (BitVec.ofNat 32 (w % 2 ^ nbits))).toOption else none

end Sys2Proof
end

