-- ==== Sys2Proof/Config.lean ====
section
/-! DEFINITION. What is fixed for the machine: the constants of 00_scope.md section 3, the OPEN parameters, and the free
values of what the spec leaves to the channel or calls unspecified. -/

namespace Sys2Proof

/-- CHUNK_SIZE (R3). -/
def chunkSize : Nat := 256

/-- SIZE_FIELD_LEN (R4). -/
def sizeFieldLen : Nat := 8

/-- TOKEN_MAX, the number of bytes of the scanner's target buffer (R6). -/
abbrev tokenMax : Nat := 26

/-- The OPEN parameters of 00_scope.md section 3. The model takes them as an argument: a state carries them unchanged
(DESIGN CHOICE, log 3; safe). -/
structure Params where
  /-- QUANTUM is `quantumPred + 1`, so that R7's `QUANTUM >= 1` holds of every value. -/
  quantumPred : Nat
  /-- TMO_SIZE_ACK_RESET (R49). -/
  tmoSizeAckReset : Word
  /-- TMO_SIZE_OK_RESET (R49). -/
  tmoSizeOkReset : Word
  /-- TMO_CHUNK_RESET (R49). -/
  tmoChunkReset : Word
  /-- TMO_IMAGE_OK_RESET (R49). -/
  tmoImageOkReset : Word
  /-- BASE is `4 * baseSlot`: R60 and R65 together let no other base be accessed (DEDUCED, log 4). -/
  baseSlot : Nat
  deriving DecidableEq, Repr, Inhabited

/-- QUANTUM (R7), a positive integer in the unit of the budget. -/
def Params.quantum (p : Params) : Nat := p.quantumPred + 1

/-- BASE (R52), the byte address of the register window. -/
def Params.base (p : Params) : Nat := 4 * p.baseSlot

/-- The outcome the channel draws for one TX write transaction (R62): `ok`, or `err k` where the first `k` bytes reach
the wire. A `k` beyond the string's length sends the whole string, which is the outcome ERR(|s|) of R62. -/
inductive TxDraw where
  | ok
  | err (k : Nat)
  deriving DecidableEq, Repr, Inhabited

/-- The parameters of the machine that State.reset describes: OPEN, so no proof sees a value (log 3). -/
opaque Config.params : Params

/-- The outcome of a TX transaction that no listed draw decides: "Its outcome is a draw of the channel, and the model
must admit every outcome" (R62, U7). The argument numbers the free values (log 2). -/
opaque Config.freeTxDraw : Nat → TxDraw

/-- The byte of `tgt` at the second argument after the reset that the first argument numbers: "unspecified: any byte
values" (R270, U2; log 5). -/
opaque Config.freeTargetByte : Nat → Nat → Byte

end Sys2Proof
end

