-- ==== Sys2Proof/Machine/State.lean ====
section
/-! DEFINITION. The state of one instance of the Trebuchet link engine as plain data: every state element of 10_state.md
section 1, the channel's two byte streams, and what the environment will do next. -/

namespace Sys2Proof.Machine

/-- The arbiter phases of R23, transient ones included. Codes 0x0A-0x10 and 0x1A-0x1F are "never held by `phase`", so
they have no constructor (U12, log 11). -/
inductive Phase where
  | idle
  | sAwaitReady
  | sSendSize
  | sAwaitSizeAck
  | sAwaitSizeOk
  | sSendChunk
  | sAwaitChunkAck
  | sAwaitImageOk
  | sDone
  | sAborted
  | rInit
  | rRequestImage
  | rReceiveSize
  | rConfirmSize
  | rAllocWait
  | rReceiveImage
  | rConfirmImage
  | rHandoff
  | rHalted
  deriving DecidableEq, Repr

/-- The abort cause (R27). -/
inductive Cause where
  | none
  | sizeAckTimeout
  | sizeOkTimeout
  | imageOkTimeout
  | txError
  | allocFailure
  deriving DecidableEq, Repr

/-- The scanner mode `smode` (R32). -/
inductive ScanMode where
  | idle
  | unbounded
  | bounded
  deriving DecidableEq, Repr

/-- The result `sres` of the last scan (R34). -/
inductive ScanResult where
  | none
  | matched
  | timedOut
  deriving DecidableEq, Repr

/-- The command error codes of STATUS.ERRCODE (R240); `none` is code 0, never raised. -/
inductive ErrCode where
  | none
  | reservedBits
  | badOpcode
  | badKind
  | busy
  | wrongPhase
  | targetFull
  | nothingHeld
  deriving DecidableEq, Repr

/-- An element of the RX queue (R61). -/
inductive RxElem where
  | byte (b : Byte)
  | error
  deriving DecidableEq, Repr

/-- What an access does on the controller port (R60). -/
inductive AccessKind where
  | read
  | write (v : Word)
  deriving DecidableEq, Repr

/-- One access of the controller at byte address `BASE + off` (R60), `width` bytes wide. Widths other than 4 and
offsets that are no multiple of 4 can be written down so that the model can refuse them (R65, U1), and offsets beyond
the window so that it can fault on them (log 6). -/
structure Access where
  width : Nat
  off : Nat
  kind : AccessKind
  deriving DecidableEq, Repr

/-- One step of one agent (R72): a controller access, an append by the channel, a turn of the block's RX port, or the
reset input (R270). -/
inductive Stimulus where
  | access (a : Access)
  | append (e : RxElem)
  | rx
  | reset
  deriving DecidableEq, Repr

/-- The state of the block: the elements of 10_state.md section 1, under the spec's names. -/
structure Block where
  /-- ARG (R22). -/
  arg : DWord
  /-- The arbiter phase (R23), which stands where a processor has a program counter (R21). -/
  phase : Phase
  /-- The abort cause (R27). -/
  cause : Cause
  /-- CRC_REG (R28). -/
  crcReg : Half
  /-- The scan target's buffer (R30). -/
  tgt : Vector Byte tokenMax
  /-- The scan target's length (R30). -/
  tlen : BitVec 5
  /-- The match cursor (R31). -/
  cur : BitVec 5
  /-- The scanner mode (R32). -/
  smode : ScanMode
  /-- The time left in a bounded scan (R33). -/
  budget : Word
  /-- The result of the last scan (R34). -/
  sres : ScanResult
  /-- LEN, the image length (R40). -/
  len : DWord
  /-- IDX, the index of the chunk in progress (R41). -/
  idx : DWord
  /-- OFF, the payload offset (R42). -/
  off : DWord
  /-- HELD (R43). -/
  held : Bool
  /-- RXDATA (R43). -/
  rxdata : Byte
  /-- ACC, the arbiter's CRC accumulator (R44). -/
  acc : Half
  /-- SNAP, ACC at the start of the chunk in progress (R45). -/
  snap : Half
  /-- EXPCRC (R46). -/
  expcrc : Half
  /-- RETRIES (R47). -/
  retries : Word
  /-- TXERRS (R48). -/
  txerrs : Word
  /-- TMO_SIZE_ACK (R49). -/
  tmoSizeAck : Word
  /-- TMO_SIZE_OK (R49). -/
  tmoSizeOk : Word
  /-- TMO_CHUNK (R49). -/
  tmoChunk : Word
  /-- TMO_IMAGE_OK (R49). -/
  tmoImageOk : Word
  /-- IRQ_EN (R50). -/
  irqEn : Byte
  /-- IRQ_PEND (R50). -/
  irqPend : Byte
  /-- ERRCODE (R51). -/
  errcode : ErrCode
  deriving DecidableEq, Repr

/-- The channel's state as this instance sees it: it is "not block state" (10_state.md section 1), and reset does not
touch it (R271). -/
structure Chan where
  /-- The RX queue, head first (R61). -/
  rxq : List RxElem
  /-- The TX stream: every byte put on the wire so far, first byte first (R62, R69). -/
  tx : List Byte
  /-- The outcomes of the coming TX transactions, next first; beyond its end they are free values (log 2). -/
  draws : List TxDraw
  /-- The model's counter that numbers the free values (log 2); no statement rests on its value. -/
  fresh : Nat
  deriving DecidableEq, Repr

/-- One instance with its environment. -/
structure State where
  /-- The OPEN parameters; no step changes them (log 3). -/
  par : Params
  /-- The block's own state. -/
  blk : Block
  /-- The channel. -/
  chan : Chan
  /-- The coming steps of all agents in their total order (R72), next first (log 1). -/
  script : List Stimulus
  /-- The values the controller's register reads have returned, oldest first (log 12). -/
  reads : List Word
  deriving DecidableEq, Repr

/-- Why a run stops with a fault. -/
inductive Fault where
  /-- Raised by a controller access at `BASE + off` with `off` beyond the 0x100-byte window: the block "fixes no other
  address" (R71), so the access is not one of the block's (log 6). Safe. -/
  | outsideWindow
  deriving DecidableEq, Repr

/-- Why the model gives a step no meaning. -/
inductive Refusal where
  /-- Raised by an arm of exec whose command has no meaning yet; no arm is left. Safe. -/
  | notModelled (mnemonic : String)
  /-- Raised by a controller access that is not an aligned 32-bit access: "A model must refuse it and never give it a
  value" (R65, U1; log 7). Safe. -/
  | undefinedAccess
  deriving DecidableEq, Repr

/-- What reset writes to "every piece of block state" (the table of R270). `n` numbers the free values that the
unspecified bytes of `tgt` take (U2, log 5). -/
def Block.reset (p : Params) (n : Nat) : Block :=
  { arg := 0
    phase := .idle
    cause := .none
    crcReg := 0xFFFF
    tgt := Vector.ofFn fun k => Config.freeTargetByte n k.val
    tlen := 0
    cur := 0
    smode := .idle
    budget := 0
    sres := .none
    len := 0
    idx := 0
    off := 0
    held := false
    rxdata := 0
    acc := 0xFFFF
    snap := 0xFFFF
    expcrc := 0
    retries := 0
    txerrs := 0
    tmoSizeAck := p.tmoSizeAckReset
    tmoSizeOk := p.tmoSizeOkReset
    tmoChunk := p.tmoChunkReset
    tmoImageOk := p.tmoImageOkReset
    irqEn := 0
    irqPend := 0
    errcode := .none }

/-- The machine right after a power-on reset ("Power-on is a reset", R270). The channel's queues, the lists of coming
inputs and the model's counter are DESIGN CHOICES (log 1, log 2, log 12). -/
def State.reset : State :=
  { par := Config.params
    blk := Block.reset Config.params 0
    chan := { rxq := [], tx := [], draws := [], fresh := 1 }
    script := []
    reads := [] }

end Sys2Proof.Machine
end

