-- ==== Sys2Proof/Machine/Operands.lean ====
section
/-! DEFINITION. The operands of commands: IMM8 as a token kind (30_encoding.md R82), the uses of ARG (R83), the byte
strings a number stands for on the wire (41_scanner_token.md R120, R121; 20_memory.md R68), and the chunk arithmetic
(42_arbiter_sender.md R163). -/

namespace Sys2Proof.Machine

/-- A token kind (R82, R121). -/
inductive TokKind where
  | rdy
  | ack
  | ok
  deriving DecidableEq, Repr

/-- IMM8 as a token kind: "0 = RDY, 1 = ACK, 2 = OK. Values 3-255 are illegal" (R82). -/
def TokKind.ofByte? (k : Byte) : Option TokKind :=
  match k.toNat with
  | 0 => some .rdy
  | 1 => some .ack
  | 2 => some .ok
  | _ => none

/-- The token number of TOK.EMIT and SCN.TOK: all 64 bits of ARG (R83). -/
def Block.argNumber (b : Block) : DWord := b.arg

/-- The image length of ARB.SEND: all 64 bits of ARG (R83). -/
def Block.argLength (b : Block) : DWord := b.arg

/-- The budget of SCN.RUNB: ARG[31:0]; ARG[63:32] is ignored (R83). -/
def Block.argBudget (b : Block) : Word := b.arg.extractLsb' 0 32

/-- A checksum as a token number, zero-extended to 64 bits (R205, D45). -/
def crcNumber (c : Half) : DWord := c.setWidth 64

/-- The ASCII byte of a decimal digit (R120). -/
def digitByte (d : Nat) : Byte := BitVec.ofNat 8 (0x30 + d)

/-- The loop of R120: the digits of `n`, most significant first, of which there are none when `n = 0`. -/
def decDigits : Nat → Nat → List Byte
  | 0, _ => []
  | fuel + 1, n => if n = 0 then [] else decDigits fuel (n / 10) ++ [digitByte (n % 10)]

/-- `dec(n)` (R120). Twenty digits are enough for 64 bits ("2^64 - 1 = 18446744073709551615 has 20 digits"). -/
def dec (n : DWord) : List Byte :=
  if n = 0 then [0x30] else decDigits 20 n.toNat

/-- The bytes of a token before its number (R121): `RDY(`, `ACK(`, `OK(`. -/
def TokKind.opening : TokKind → List Byte
  | .rdy => [0x52, 0x44, 0x59, 0x28]
  | .ack => [0x41, 0x43, 0x4B, 0x28]
  | .ok => [0x4F, 0x4B, 0x28]

/-- `tok(k, n)`, the byte string of a control token, its closing parenthesis and linefeed last (R121). -/
def tok (k : TokKind) (n : DWord) : List Byte := k.opening ++ dec n ++ [0x29, 0x0A]

/-- `be8(L)`, the size field on the wire, most significant byte first (R68). -/
def be8 (l : DWord) : List Byte :=
  [l.extractLsb' 56 8, l.extractLsb' 48 8, l.extractLsb' 40 8, l.extractLsb' 32 8,
   l.extractLsb' 24 8, l.extractLsb' 16 8, l.extractLsb' 8 8, l.extractLsb' 0 8]

/-- The number of chunks of an image of length `l` (R163). -/
def nchunks (l : DWord) : DWord := (l >>> 8) + (if l.extractLsb' 0 8 = 0 then 0 else 1)

/-- The image offset of the first byte of chunk `i` (R163). -/
def chunkStart (i : DWord) : DWord := i <<< 8

/-- The image offset after the last byte of chunk `i` (R163). -/
def chunkEnd (l i : DWord) : DWord :=
  if 256 ≤ l - chunkStart i then chunkStart i + 256 else l

/-- The number of bytes of chunk `i` (R163). -/
def chunkLen (l i : DWord) : DWord := chunkEnd l i - chunkStart i

end Sys2Proof.Machine
end

