-- ==== Sys2Proof/Machine/Flags.lean ====
section
/-! DEFINITION. The block's flags and their codes (10_state.md R23 to R34, R54 to R56), the interrupt bits and line
(60_exceptions.md R245 to R248), and the classes of phases (R24 to R26). -/

namespace Sys2Proof.Machine

/-- The code of a phase in STATUS.PHASE (the table of R23). -/
def Phase.code : Phase → BitVec 5
  | .idle => 0x00
  | .sAwaitReady => 0x01
  | .sSendSize => 0x02
  | .sAwaitSizeAck => 0x03
  | .sAwaitSizeOk => 0x04
  | .sSendChunk => 0x05
  | .sAwaitChunkAck => 0x06
  | .sAwaitImageOk => 0x07
  | .sDone => 0x08
  | .sAborted => 0x09
  | .rInit => 0x11
  | .rRequestImage => 0x12
  | .rReceiveSize => 0x13
  | .rConfirmSize => 0x14
  | .rAllocWait => 0x15
  | .rReceiveImage => 0x16
  | .rConfirmImage => 0x17
  | .rHandoff => 0x18
  | .rHalted => 0x19

/-- The code of a cause in STATUS.CAUSE (R27). -/
def Cause.code : Cause → BitVec 3
  | .none => 0
  | .sizeAckTimeout => 1
  | .sizeOkTimeout => 2
  | .imageOkTimeout => 3
  | .txError => 4
  | .allocFailure => 5

/-- The code of a scanner mode in STATUS.SMODE (R32). -/
def ScanMode.code : ScanMode → BitVec 2
  | .idle => 0
  | .unbounded => 1
  | .bounded => 2

/-- The code of a scan result in STATUS.SRES (R34). -/
def ScanResult.code : ScanResult → BitVec 2
  | .none => 0
  | .matched => 1
  | .timedOut => 2

/-- The code of a command error in STATUS.ERRCODE (the table of R240). -/
def ErrCode.code : ErrCode → BitVec 3
  | .none => 0
  | .reservedBits => 1
  | .badOpcode => 2
  | .badKind => 3
  | .busy => 4
  | .wrongPhase => 5
  | .targetFull => 6
  | .nothingHeld => 7

/-- The command error that a refusal of the decoder raises (R85, R240). -/
def errOfDecode : DecodeError → ErrCode
  | .reservedBits => .reservedBits
  | .badOpcode => .badOpcode
  | .badKind => .badKind

/-- The role of an instance (R26). -/
inductive Role where
  | none
  | sender
  | receiver
  deriving DecidableEq, Repr

/-- "The role is NONE when `phase = 0x00`. It is SENDER when `phase[4] = 0` and `phase != 0`. It is RECEIVER when
`phase[4] = 1`" (R26). -/
def Phase.role (p : Phase) : Role :=
  if p.code = 0 then .none else if p.code.getLsbD 4 then .receiver else .sender

/-- "The terminal phases are IDLE, S_DONE, S_ABORTED, R_HANDOFF and R_HALTED" (R24). -/
def Phase.terminal (p : Phase) : Bool :=
  p = .idle || p = .sDone || p = .sAborted || p = .rHandoff || p = .rHalted

/-- "The transient phases are S_SEND_SIZE, R_INIT, R_REQUEST_IMAGE, R_CONFIRM_SIZE, R_CONFIRM_IMAGE" (R25). -/
def Phase.transient (p : Phase) : Bool :=
  p = .sSendSize || p = .rInit || p = .rRequestImage || p = .rConfirmSize || p = .rConfirmImage

/-- The sender's waits that run a scan (the table of R161). -/
def Phase.scanWait (p : Phase) : Bool :=
  p = .sAwaitReady || p = .sAwaitSizeAck || p = .sAwaitSizeOk || p = .sAwaitChunkAck || p = .sAwaitImageOk

/-- The interrupt bits (R245). -/
inductive Irq where
  | scanDone
  | chunkReq
  | allocReq
  | rxAvail
  | done
  | abort
  | cmdErr
  | restart
  deriving DecidableEq, Repr

/-- The bit of an interrupt in IRQ_EN and IRQ_PEND (R245). -/
def Irq.bit : Irq → Nat
  | .scanDone => 0
  | .chunkReq => 1
  | .allocReq => 2
  | .rxAvail => 3
  | .done => 4
  | .abort => 5
  | .cmdErr => 6
  | .restart => 7

/-- The byte with that one bit set. -/
def Irq.mask (q : Irq) : Byte := 1#8 <<< q.bit

/-- Whether an interrupt bit is pending. -/
def Block.pending (b : Block) (q : Irq) : Bool := b.irqPend.getLsbD q.bit

/-- The interrupt output, `irq = ((IRQ_PEND AND IRQ_EN) != 0)` (R248). -/
def Block.irqLine (b : Block) : Bool := (b.irqPend &&& b.irqEn) != 0

/-- HELD as one bit. -/
def Block.heldBit (b : Block) : BitVec 1 := if b.held then 1 else 0

/-- `STATUS = {13'b0, ERRCODE, 3'b0, HELD, sres, smode, cause, phase}` (R54), each field at its lowest bit. -/
def Block.status (b : Block) : Word :=
  b.phase.code.setWidth 32 ||| (b.cause.code.setWidth 32 <<< 5) ||| (b.smode.code.setWidth 32 <<< 8) |||
    (b.sres.code.setWidth 32 <<< 10) ||| (b.heldBit.setWidth 32 <<< 12) ||| (b.errcode.code.setWidth 32 <<< 16)

/-- "SCAN[4:0] = cur, SCAN[12:8] = tlen, all other bits 0" (R55). -/
def Block.scanReg (b : Block) : Word := b.cur.setWidth 32 ||| (b.tlen.setWidth 32 <<< 8)

end Sys2Proof.Machine
end

