-- ==== Sys2Proof/Machine/Ops.lean ====
section
/-! DEFINITION. The named operations that commands, RX steps and register accesses share: interrupt bits, command
errors, TX transactions, and the RX port. The block has no memory (R71) and no general registers (R20), so these are
all the operations over its state. -/

namespace Sys2Proof.Machine

/-- `sat_inc32(x)` (R9): "`x + 1` if `x < 0xFFFFFFFF` and `x` otherwise". -/
def satInc32 (x : Word) : Word := if x < 0xFFFFFFFF then x + 1 else x

/-- A change of the block's own state. -/
def State.mapBlk (f : Block → Block) (s : State) : State := { s with blk := f s.blk }

/-- `irq_set(BIT)` (R246): `IRQ_PEND[BIT] <- 1`. -/
def Block.irqSet (q : Irq) (b : Block) : Block := { b with irqPend := b.irqPend ||| q.mask }

/-- One more TX transaction that returned ERR (R48). -/
def Block.countTxErr (b : Block) : Block := { b with txerrs := satInc32 b.txerrs }

/-- `raise CmdError(code)` (R241), the block's only synchronous exception: `ERRCODE <- code; irq_set(CMDERR)`, and
"Nothing else changes". There is no trap entry, saved state or handler address (R250), and no return (R251): the
controller acknowledges by writing IRQ_PEND (R247). -/
def Block.cmdError (c : ErrCode) (b : Block) : Block := ({ b with errcode := c }).irqSet .cmdErr

/-- A command error in the whole state (R241). -/
def State.cmdError (c : ErrCode) (s : State) : State := s.mapBlk (Block.cmdError c)

/-- A command that raises an error: the command is discarded and the block goes on (R241). -/
def State.raise (c : ErrCode) (s : State) : Host.Outcome State Fault Refusal := .next (s.cmdError c)

/-- A role runs, or a scan runs: the condition under which the scanner and role commands raise BUSY (R240, R242). -/
def Block.unitBusy (b : Block) : Bool := b.phase != .idle || b.smode != .idle

/-- What the caller of `Emit` sees (R62): "The caller sees `OK` or `ERR`; it does not see k". -/
inductive TxResult where
  | ok
  | err
  deriving DecidableEq, Repr

/-- The channel's draw for the next TX transaction: the next listed draw, or a free value (R62, log 2). -/
def Chan.draw (c : Chan) : TxDraw :=
  match c.draws with
  | d :: _ => d
  | [] => Config.freeTxDraw c.fresh

/-- The bytes of `bs` that reach the wire under a draw (R62). -/
def sentBytes (bs : List Byte) : TxDraw → List Byte
  | .ok => bs
  | .err k => bs.take k

/-- What the block sees of a draw (R62). -/
def drawResult : TxDraw → TxResult
  | .ok => .ok
  | .err _ => .err

/-- The channel after one TX transaction of `bs` (R62, R69). -/
def Chan.send (bs : List Byte) (c : Chan) : Chan :=
  { c with tx := c.tx ++ sentBytes bs c.draw, draws := c.draws.tail, fresh := c.fresh + 1 }

/-- What `Emit` answers next. -/
def State.txResult (s : State) : TxResult := drawResult s.chan.draw

/-- The state after `Emit(bs)`, before the caller looks at the answer (R62). -/
def State.emit (bs : List Byte) (s : State) : State := { s with chan := s.chan.send bs }

/-- `r <- Emit(bs); if r = ERR: TXERRS <- sat_inc32(TXERRS)`: the emission of R122, R172 outside a role, R200, R205,
R212 and R214, whose failure only counts (R216). -/
def State.emitCounted (bs : List Byte) (s : State) : State :=
  match s.txResult with
  | .ok => s.emit bs
  | .err => (s.emit bs).mapBlk Block.countTxErr

/-- An RX event (R61). -/
inductive RxEvent where
  | byte (b : Byte)
  | error
  | quiet
  deriving DecidableEq, Repr

/-- The event an element of the RX queue stands for (R61). -/
def RxElem.event : RxElem → RxEvent
  | .byte b => .byte b
  | .error => .error

/-- The RX event of a reading step: the head of the queue, or `Quiet` when it is empty (R61). -/
def Chan.rxEvent (c : Chan) : RxEvent :=
  match c.rxq with
  | [] => .quiet
  | e :: _ => e.event

/-- The state after a reading step has taken its event from the queue (R61). -/
def State.dropRx (s : State) : State := { s with chan.rxq := s.chan.rxq.tail }

/-- "The block is reading, and so has an enabled RX step, exactly when" a scan runs, or `phase = R_RECEIVE_SIZE`, or
`phase = R_RECEIVE_IMAGE` and `HELD = 0` (R63). -/
def Block.reading (b : Block) : Bool :=
  b.smode != .idle || b.phase == .rReceiveSize || (b.phase == .rReceiveImage && !b.held)

end Sys2Proof.Machine
end

