-- ==== Sys2Proof/Machine/CrcUnit.lean ====
section
/-! DEFINITION. The CRC unit (40_crc.md): the checksum function and the commands CRC.INIT and CRC.BYTE. -/

namespace Sys2Proof.Machine

/-- One turn of the loop of R101: a right shift, and the reflected polynomial 0x8408 where the bit shifted out is 1. -/
def crcShift (c : Half) : Half := if c.getLsbD 0 then (c >>> 1) ^^^ 0x8408 else c >>> 1

/-- `crc_upd(c, b)` (R101). -/
def crcUpd (c : Half) (b : Byte) : Half := Nat.repeat crcShift 8 (c ^^^ b.setWidth 16)

/-- The register after the bytes of `s`, in order, from `c`. -/
def crcRun (c : Half) (s : List Byte) : Half := s.foldl crcUpd c

/-- "initial register 0xFFFF" (R100, R103). -/
def crcInitial : Half := 0xFFFF

/-- `crc_final(c) = c XOR 0xFFFF` (R102). -/
def crcFinal (c : Half) : Half := c ^^^ 0xFFFF

/-- `checksum(s)` (R103). -/
def checksum (s : List Byte) : Half := crcFinal (crcRun crcInitial s)

/-- CRC.INIT (R104): `CRC_REG <- 0xFFFF`, legal in every state. -/
def execCrcInit (s : State) : Host.Outcome State Fault Refusal :=
  .next (s.mapBlk fun b => { b with crcReg := crcInitial })

/-- CRC.BYTE (R105): `CRC_REG <- crc_upd(CRC_REG, b)`, legal in every state. -/
def execCrcByte (x : Byte) (s : State) : Host.Outcome State Fault Refusal :=
  .next (s.mapBlk fun b => { b with crcReg := crcUpd b.crcReg x })

end Sys2Proof.Machine
end

