-- ==== Sys2Proof/Machine/Control.lean ====
section
/-! DEFINITION. The control commands (44_control.md R230, R231). -/

namespace Sys2Proof.Machine

/-- What ARB.CLEAR writes (R230). The scanner, ARG, CRC_REG, the TMO registers, IRQ_EN, IRQ_PEND and ERRCODE stay. -/
def Block.cleared (b : Block) : Block :=
  { b with
    phase := .idle
    cause := .none
    len := 0
    idx := 0
    off := 0
    held := false
    rxdata := 0
    expcrc := 0
    retries := 0
    txerrs := 0
    acc := crcInitial
    snap := crcInitial }

/-- ARB.CLEAR (R230): legal in the terminal phases, IDLE among them. -/
def execArbClear (s : State) : Host.Outcome State Fault Refusal :=
  if s.blk.phase.terminal then .next (s.mapBlk Block.cleared) else s.raise .wrongPhase

/-- NOP (R231): no state change. -/
def execNop (s : State) : Host.Outcome State Fault Refusal := .next s

end Sys2Proof.Machine
end

