-- ==== Sys2Proof/Machine/ScannerOps.lean ====
section
/-! DEFINITION. The scanner's target and its start (41_scanner_token.md R123, R131): operations of the scanner commands
and of the arbiter. -/

namespace Sys2Proof.Machine

/-- `for j: tgt[j] <- s[j]`, from place `j` on (R123, R131). -/
def writeTarget : List Byte → Nat → Vector Byte tokenMax → Vector Byte tokenMax
  | [], _, v => v
  | b :: bs, j, v => writeTarget bs (j + 1) (v.setIfInBounds j b)

/-- The valid bytes of the target, `tgt[0..tlen-1]`, the only ones ever read (R30). -/
def Block.target (b : Block) : List Byte := b.tgt.toList.take b.tlen.toNat

/-- The load of a byte string as the scan target (R123): `tlen <- |s|; cur <- 0; sres <- NONE`. -/
def Block.loadTarget (s : List Byte) (b : Block) : Block :=
  { b with
    tgt := writeTarget s 0 b.tgt
    tlen := BitVec.ofNat 5 s.length
    cur := 0
    sres := .none }

/-- `start_scan(k, n, m, B)` (R131). The budget is written in mode BOUNDED only. -/
def Block.startScan (k : TokKind) (n : DWord) (m : ScanMode) (budget : Word) (b : Block) : Block :=
  let t := b.loadTarget (tok k n)
  { t with smode := m, budget := if m = .bounded then budget else t.budget }

end Sys2Proof.Machine
end

