-- ==== Sys2Proof/Machine/ArbiterOps.lean ====
section
/-! DEFINITION. The arbiter's helpers and its reactions inside a step: the sender's (42_arbiter_sender.md R162, R164 to
R166), the end of a scan (41_scanner_token.md R130), and the receiver's confirmations (43_arbiter_receiver.md R205,
R214). -/

namespace Sys2Proof.Machine

/-- `enter_send_chunk()` (R164). -/
def Block.enterSendChunk (b : Block) : Block :=
  ({ b with phase := .sSendChunk, acc := b.snap, off := chunkStart b.idx }).irqSet .chunkReq

/-- `enter_image_ok()` (R164). -/
def Block.enterImageOk (b : Block) : Block :=
  ({ b with expcrc := crcFinal b.acc, phase := .sAwaitImageOk }).startScan .ok (crcNumber (crcFinal b.acc)) .bounded
    b.tmoImageOk

/-- `abort(c)` (R164). -/
def Block.abort (c : Cause) (b : Block) : Block :=
  ({ b with phase := .sAborted, cause := c }).irqSet .abort

/-- A failed TX transaction of the sender (R162, R172): `TXERRS <- sat_inc32(TXERRS); abort(TX_ERROR)`. -/
def Block.txAbort (b : Block) : Block := b.countTxErr.abort .txError

/-- The wait for the size field's ACK after a successful SendSize (R162). -/
def Block.enterSizeAck (b : Block) : Block :=
  ({ b with expcrc := checksum (be8 b.len), phase := .sAwaitSizeAck }).startScan .ack 0 .bounded b.tmoSizeAck

/-- SendSize (R162): "writes the 8-byte big-endian length once"; a failed write aborts. -/
def State.sendSize (s : State) : State :=
  let t := s.mapBlk fun b => { b with phase := .sSendSize }
  let u := t.emit (be8 t.blk.len)
  match t.txResult with
  | .err => u.mapBlk Block.txAbort
  | .ok => u.mapBlk Block.enterSizeAck

/-- S_AWAIT_SIZE_ACK matched (R165). -/
def Block.enterSizeOk (b : Block) : Block :=
  ({ b with phase := .sAwaitSizeOk }).startScan .ok (crcNumber b.expcrc) .bounded b.tmoSizeOk

/-- IDX, ACC and SNAP at the start of the image phase (R165). -/
def Block.beginImage (b : Block) : Block := { b with idx := 0, acc := crcInitial, snap := crcInitial }

/-- S_AWAIT_SIZE_OK matched (R165). -/
def Block.enterImage (b : Block) : Block :=
  if nchunks b.len = 0 then b.beginImage.enterImageOk else b.beginImage.enterSendChunk

/-- A completed chunk: "a completed chunk copies ACC into SNAP" (R45). -/
def Block.commitChunk (b : Block) : Block := { b with snap := b.acc }

/-- The next chunk of the image. -/
def Block.nextChunk (b : Block) : Block := { b with idx := b.idx + 1 }

/-- S_AWAIT_CHUNK_ACK matched (R165): chunk IDX is acknowledged. -/
def Block.chunkAcked (b : Block) : Block :=
  if b.idx + 1 < nchunks b.len then b.commitChunk.nextChunk.enterSendChunk else b.commitChunk.enterImageOk

/-- S_AWAIT_IMAGE_OK matched (R165). -/
def Block.enterDone (b : Block) : Block := ({ b with phase := .sDone }).irqSet .done

/-- The sender's reaction to MATCH (R165). R165 lists the five phases in which the sender scans; in any other phase the
rule gives no reaction, and no reachable state comes here (log 10). -/
def State.onMatch (s : State) : State :=
  match s.blk.phase with
  | .sAwaitReady => s.sendSize
  | .sAwaitSizeAck => s.mapBlk Block.enterSizeOk
  | .sAwaitSizeOk => s.mapBlk Block.enterImage
  | .sAwaitChunkAck => s.mapBlk Block.chunkAcked
  | .sAwaitImageOk => s.mapBlk Block.enterDone
  | _ => s

/-- S_AWAIT_CHUNK_ACK timed out (R166): retransmit chunk IDX. -/
def Block.retransmit (b : Block) : Block := ({ b with retries := satInc32 b.retries }).enterSendChunk

/-- The sender's reaction to TIMEOUT (R166). S_AWAIT_READY runs an unbounded scan, "which never times out"; for it and
for every phase R166 does not list there is no reaction (log 10). -/
def Block.onTimeout (b : Block) : Block :=
  match b.phase with
  | .sAwaitSizeAck => b.abort .sizeAckTimeout
  | .sAwaitSizeOk => b.abort .sizeOkTimeout
  | .sAwaitChunkAck => b.retransmit
  | .sAwaitImageOk => b.abort .imageOkTimeout
  | _ => b

/-- How a scan ends (R130). -/
inductive ScanEnd where
  | matched
  | timedOut
  deriving DecidableEq, Repr

/-- The value `sres` takes at the end of a scan (R34). -/
def ScanEnd.result : ScanEnd → ScanResult
  | .matched => .matched
  | .timedOut => .timedOut

/-- The first two lines of `scan_end(r)` (R130): `sres <- r; smode <- IDLE; irq_set(SCAN_DONE)`. -/
def Block.closeScan (r : ScanEnd) (b : Block) : Block :=
  ({ b with sres := r.result, smode := .idle }).irqSet .scanDone

/-- The sender arbiter's reaction to the end of a scan (R130). -/
def State.onScanEnd (r : ScanEnd) (s : State) : State :=
  match r with
  | .matched => s.onMatch
  | .timedOut => s.mapBlk Block.onTimeout

/-- `scan_end(r)` (R130), with the sender arbiter's reaction in the same step. -/
def State.scanEnd (r : ScanEnd) (s : State) : State :=
  let t := s.mapBlk (Block.closeScan r)
  if t.blk.phase.role = .sender then t.onScanEnd r else t

/-- ConfirmSize after the ACK (R205). -/
def Block.beginConfirmSize (b : Block) : Block := { b with phase := .rConfirmSize, expcrc := crcFinal b.acc }

/-- ConfirmSize after the OK (R205). -/
def Block.enterAllocWait (b : Block) : Block :=
  ({ b with phase := .rAllocWait, idx := 0, off := 0, acc := crcInitial, snap := crcInitial }).irqSet .allocReq

/-- ConfirmSize (R205): ACK, then OK with the checksum of the eight bytes. -/
def State.confirmSize (s : State) : State :=
  let t := (s.emitCounted (tok .ack 0)).mapBlk Block.beginConfirmSize
  (t.emitCounted (tok .ok (crcNumber t.blk.expcrc))).mapBlk Block.enterAllocWait

/-- ConfirmImage before the OK (R214). -/
def Block.beginConfirmImage (b : Block) : Block := { b with phase := .rConfirmImage, expcrc := crcFinal b.acc }

/-- ConfirmImage after the OK (R214). -/
def Block.enterHandoff (b : Block) : Block := ({ b with phase := .rHandoff }).irqSet .done

/-- ConfirmImage (R214). -/
def State.confirmImage (s : State) : State :=
  let t := s.mapBlk Block.beginConfirmImage
  (t.emitCounted (tok .ok (crcNumber t.blk.expcrc))).mapBlk Block.enterHandoff

end Sys2Proof.Machine
end

