-- ==== Sys2Proof/Machine/Sender.lean ====
section
/-! DEFINITION. The sender role's commands (42_arbiter_sender.md R160, R172). -/

namespace Sys2Proof.Machine

/-- What ARB.SEND and ARB.RECV clear (R160, R200) beside LEN. -/
def Block.clearTransfer (b : Block) : Block :=
  { b with
    idx := 0
    off := 0
    held := false
    retries := 0
    txerrs := 0
    cause := .none
    expcrc := 0
    acc := crcInitial
    snap := crcInitial }

/-- The start of the sender role (R160). The unbounded scan has no budget, so the last argument of its start is not
used. -/
def Block.beginSend (b : Block) : Block :=
  ({ b.clearTransfer with len := b.argLength, phase := .sAwaitReady }).startScan .rdy (BitVec.ofNat 64 chunkSize)
    .unbounded 0

/-- ARB.SEND (R160). -/
def execArbSend (s : State) : Host.Outcome State Fault Refusal :=
  if s.blk.unitBusy then s.raise .busy else .next (s.mapBlk Block.beginSend)

/-- ACC and OFF after a payload byte that reached the wire (R172). -/
def Block.countPayload (x : Byte) (b : Block) : Block := { b with acc := crcUpd b.acc x, off := b.off + 1 }

/-- The wait for a chunk's ACK (R172). -/
def Block.enterChunkAck (b : Block) : Block :=
  ({ b with phase := .sAwaitChunkAck }).startScan .ack b.idx .bounded b.tmoChunk

/-- A payload byte that reached the wire (R172): the last byte of a chunk starts the wait for its ACK. -/
def Block.payloadSent (x : Byte) (b : Block) : Block :=
  let t := b.countPayload x
  if t.off = chunkEnd t.len t.idx then t.enterChunkAck else t

/-- TX.BYTE in S_SEND_CHUNK (R172): a failure aborts the role. -/
def State.sendPayload (x : Byte) (s : State) : State :=
  match s.txResult with
  | .err => (s.emit [x]).mapBlk Block.txAbort
  | .ok => (s.emit [x]).mapBlk (Block.payloadSent x)

/-- TX.BYTE (R172): a raw byte in IDLE, a payload byte in S_SEND_CHUNK, WRONG_PHASE elsewhere. -/
def execTxByte (x : Byte) (s : State) : Host.Outcome State Fault Refusal :=
  if s.blk.phase = .idle then .next (s.emitCounted [x])
  else if s.blk.phase = .sSendChunk then .next (s.sendPayload x)
  else s.raise .wrongPhase

end Sys2Proof.Machine
end

