-- ==== Sys2Proof/Machine/Receiver.lean ====
section
/-! DEFINITION. The receiver role's commands (43_arbiter_receiver.md R200, R207, R208, R212). -/

namespace Sys2Proof.Machine

/-- The start of the receiver role, up to its two transient phases (R200). -/
def Block.beginReceive (b : Block) : Block := { b.clearTransfer with len := 0, phase := .rInit }

/-- The step of ARB.RECV (R200): Init, RequestImage with its one RDY, ReceiveSize. -/
def State.requestImage (s : State) : State :=
  let t := (s.mapBlk Block.beginReceive).mapBlk fun b => { b with phase := .rRequestImage }
  (t.emitCounted (tok .rdy (BitVec.ofNat 64 chunkSize))).mapBlk fun b => { b with phase := .rReceiveSize }

/-- ARB.RECV (R200): RDY is emitted exactly once, and a failed emission only counts. -/
def execArbRecv (s : State) : Host.Outcome State Fault Refusal :=
  if s.blk.unitBusy then s.raise .busy else .next s.requestImage

/-- The step of ARB.ALLOC (R207): an empty image goes straight to ConfirmImage. -/
def State.allocated (s : State) : State :=
  let t := s.mapBlk fun b => { b with phase := .rReceiveImage }
  if t.blk.len = 0 then t.confirmImage else t

/-- ARB.ALLOC (R207). -/
def execArbAlloc (s : State) : Host.Outcome State Fault Refusal :=
  if s.blk.phase = .rAllocWait then .next s.allocated else s.raise .wrongPhase

/-- `phase <- R_HALTED; cause <- ALLOC_FAILURE; irq_set(ABORT)` (R208). -/
def Block.halt (b : Block) : Block := ({ b with phase := .rHalted, cause := .allocFailure }).irqSet .abort

/-- ARB.NOALLOC (R208). -/
def execArbNoalloc (s : State) : Host.Outcome State Fault Refusal :=
  if s.blk.phase = .rAllocWait then .next (s.mapBlk Block.halt) else s.raise .wrongPhase

/-- The part of RX.TAKE after the byte is released, when chunk IDX is filled (R212). -/
def State.chunkFilled (s : State) : State :=
  let t := (s.emitCounted (tok .ack s.blk.idx)).mapBlk Block.commitChunk
  if t.blk.off = t.blk.len then t.confirmImage else t.mapBlk Block.nextChunk

/-- `HELD <- 0; OFF <- OFF + 1` (R212). -/
def Block.release (b : Block) : Block := { b with held := false, off := b.off + 1 }

/-- RX.TAKE's effect (R212). -/
def State.takeByte (s : State) : State :=
  let t := s.mapBlk Block.release
  if t.blk.off = chunkEnd t.blk.len t.blk.idx then t.chunkFilled else t

/-- RX.TAKE (R212): WRONG_PHASE first, then NOTHING_HELD. -/
def execRxTake (s : State) : Host.Outcome State Fault Refusal :=
  if s.blk.phase = .rReceiveImage then
    if s.blk.held then .next s.takeByte else s.raise .nothingHeld
  else s.raise .wrongPhase

end Sys2Proof.Machine
end

