-- ==== Sys2Proof/Machine/ScannerToken.lean ====
section
/-! DEFINITION. The scanner/token unit's commands (41_scanner_token.md R122 to R127). -/

namespace Sys2Proof.Machine

/-- TOK.EMIT (R122). BAD_KIND is the decoder's; a term with no encoding raises it here (log 14). -/
def execTokEmit (k : Byte) (s : State) : Host.Outcome State Fault Refusal :=
  match TokKind.ofByte? k with
  | none => s.raise .badKind
  | some kind =>
    if s.blk.phase = .idle then .next (s.emitCounted (tok kind s.blk.argNumber)) else s.raise .busy

/-- SCN.TOK (R123). -/
def execScnTok (k : Byte) (s : State) : Host.Outcome State Fault Refusal :=
  match TokKind.ofByte? k with
  | none => s.raise .badKind
  | some kind =>
    if s.blk.unitBusy then s.raise .busy
    else .next (s.mapBlk fun b => b.loadTarget (tok kind b.argNumber))

/-- SCN.CLR (R124): `tlen <- 0; cur <- 0; sres <- NONE`; the bytes of tgt stay. -/
def execScnClr (s : State) : Host.Outcome State Fault Refusal :=
  if s.blk.unitBusy then s.raise .busy
  else .next (s.mapBlk fun b => { b with tlen := 0, cur := 0, sres := .none })

/-- `tgt[tlen] <- b; tlen <- tlen + 1; cur <- 0; sres <- NONE` (R125). -/
def Block.pushTarget (x : Byte) (b : Block) : Block :=
  { b with tgt := b.tgt.setIfInBounds b.tlen.toNat x, tlen := b.tlen + 1, cur := 0, sres := .none }

/-- SCN.PUSH (R125): BUSY first, then TARGET_FULL. -/
def execScnPush (x : Byte) (s : State) : Host.Outcome State Fault Refusal :=
  if s.blk.unitBusy then s.raise .busy
  else if s.blk.tlen = BitVec.ofNat 5 tokenMax then s.raise .targetFull
  else .next (s.mapBlk (Block.pushTarget x))

/-- The start of a scan over the loaded target (R126, R127): an empty target matches at once, with zero reads. -/
def State.runScan (m : ScanMode) (s : State) : State :=
  let t := s.mapBlk fun b => { b with cur := 0, sres := .none }
  if t.blk.tlen = 0 then t.scanEnd .matched else t.mapBlk fun b => { b with smode := m }

/-- SCN.RUN (R126). -/
def execScnRun (s : State) : Host.Outcome State Fault Refusal :=
  if s.blk.unitBusy then s.raise .busy else .next (s.runScan .unbounded)

/-- SCN.RUNB (R127): `budget <- ARG[31:0]`, whether or not the target is empty. -/
def execScnRunb (s : State) : Host.Outcome State Fault Refusal :=
  if s.blk.unitBusy then s.raise .busy
  else .next ((s.mapBlk fun b => { b with budget := b.argBudget }).runScan .bounded)

end Sys2Proof.Machine
end

