-- ==== Sys2Proof/Machine/Dispatch.lean ====
section
/-! DEFINITION. One arm per command (30_encoding.md R84). -/

namespace Sys2Proof.Machine

/-- The meaning of a command in a state. -/
def exec (i : Instr) (s : State) : Host.Outcome State Fault Refusal :=
  match i with
  | .nop => Sys2Proof.Machine.execNop s
  | .crcInit => Sys2Proof.Machine.execCrcInit s
  | .crcByte b => Sys2Proof.Machine.execCrcByte b s
  | .tokEmit k => Sys2Proof.Machine.execTokEmit k s
  | .scnTok k => Sys2Proof.Machine.execScnTok k s
  | .scnClr => Sys2Proof.Machine.execScnClr s
  | .scnPush b => Sys2Proof.Machine.execScnPush b s
  | .scnRun => Sys2Proof.Machine.execScnRun s
  | .scnRunb => Sys2Proof.Machine.execScnRunb s
  | .arbSend => Sys2Proof.Machine.execArbSend s
  | .arbRecv => Sys2Proof.Machine.execArbRecv s
  | .arbAlloc => Sys2Proof.Machine.execArbAlloc s
  | .arbNoalloc => Sys2Proof.Machine.execArbNoalloc s
  | .rxTake => Sys2Proof.Machine.execRxTake s
  | .arbClear => Sys2Proof.Machine.execArbClear s
  | .txByte b => Sys2Proof.Machine.execTxByte b s

end Sys2Proof.Machine
end

