-- ==== Sys2Proof/Machine/RxPort.lean ====
section
/-! DEFINITION. The block's RX steps: one event of a scan (41_scanner_token.md R128, R129), of R_RECEIVE_SIZE and of
R_RECEIVE_IMAGE (43_arbiter_receiver.md R203, R211). -/

namespace Sys2Proof.Machine

/-- The cursor after byte `x` of a scan (R128): advance on `b = tgt[cur]`, else the naive restart. A cursor outside the
valid target, which no reachable state has, meets no byte and so no match (log 9). -/
def Block.nextCursor (x : Byte) (b : Block) : BitVec 5 :=
  if b.target[b.cur.toNat]? = some x then b.cur + 1 else 0

/-- A Byte event during a scan (R128). -/
def State.scanByte (x : Byte) (s : State) : State :=
  let t := s.mapBlk fun b => { b with cur := b.nextCursor x }
  if t.blk.cur = t.blk.tlen then t.scanEnd .matched else t

/-- The charge of one unsuccessful read against a bounded scan (R129). The comparison is made on the numbers themselves,
because QUANTUM has no width (R7). -/
def State.chargeBudget (s : State) : State :=
  if s.blk.budget.toNat ≤ s.par.quantum then (s.mapBlk fun b => { b with budget := 0 }).scanEnd .timedOut
  else s.mapBlk fun b => { b with budget := b.budget - BitVec.ofNat 32 s.par.quantum }

/-- A Quiet or Error event during a scan (R129): an unbounded scan does not change. -/
def State.scanUnsuccessful (s : State) : State :=
  if s.blk.smode = .bounded then s.chargeBudget else s

/-- One RX event of a running scan (R128, R129). -/
def State.scanEvent (e : RxEvent) (s : State) : State :=
  match e with
  | .byte x => s.scanByte x
  | .error => s.scanUnsuccessful
  | .quiet => s.scanUnsuccessful

/-- A byte of the size field (R203), LEN taking it most significant byte first. -/
def Block.takeSizeByte (x : Byte) (b : Block) : Block :=
  { b with len := (b.len <<< 8) ||| x.setWidth 64, acc := crcUpd b.acc x, off := b.off + 1 }

/-- A read failure in the size field: its one chunk starts again (R203). -/
def Block.restartSize (b : Block) : Block :=
  ({ b with len := 0, acc := b.snap, off := 0 }).irqSet .restart

/-- One RX event in R_RECEIVE_SIZE (R203). -/
def State.sizeEvent (e : RxEvent) (s : State) : State :=
  match e with
  | .byte x =>
    let t := s.mapBlk (Block.takeSizeByte x)
    if t.blk.off = BitVec.ofNat 64 sizeFieldLen then t.confirmSize else t
  | .error => s.mapBlk Block.restartSize
  | .quiet => s

/-- An image byte held for the controller (R211). -/
def Block.holdByte (x : Byte) (b : Block) : Block :=
  ({ b with rxdata := x, held := true, acc := crcUpd b.acc x }).irqSet .rxAvail

/-- A read failure in the image: chunk IDX starts again (R211). -/
def Block.restartChunk (b : Block) : Block :=
  ({ b with acc := b.snap, off := chunkStart b.idx }).irqSet .restart

/-- One RX event in R_RECEIVE_IMAGE with HELD = 0 (R211). -/
def State.imageEvent (e : RxEvent) (s : State) : State :=
  match e with
  | .byte x => s.mapBlk (Block.holdByte x)
  | .error => s.mapBlk Block.restartChunk
  | .quiet => s

/-- What a reading block does with its RX event: the three cases of R63, which "never hold together" in a reachable
state (log 10). -/
def State.onRxEvent (e : RxEvent) (s : State) : State :=
  if s.blk.smode ≠ .idle then s.scanEvent e
  else if s.blk.phase = .rReceiveSize then s.sizeEvent e
  else s.imageEvent e

/-- A turn of the RX port (R61, R63): a reading block consumes exactly one RX event; "In every other state the block
consumes no RX event" (log 16). -/
def State.rxStep (s : State) : State :=
  if s.blk.reading then s.dropRx.onRxEvent s.chan.rxEvent else s

end Sys2Proof.Machine
end

