-- ==== Sys2Proof/Machine/Window.lean ====
section
/-! DEFINITION. The controller port: the register map (10_state.md R52 to R55) and the accesses to it (20_memory.md R60,
R64 to R67; 60_exceptions.md R247). -/

namespace Sys2Proof.Machine

/-- The registers of the window, by the names of R52. -/
inductive Reg where
  | id
  | irqEn
  | irqPend
  | status
  | cmd
  | argLo
  | argHi
  | crcReg
  | crcOut
  | scan
  | budget
  | rxdata
  | offLo
  | offHi
  | lenLo
  | lenHi
  | idxLo
  | idxHi
  | expcrc
  | retries
  | txerrs
  | tmoSizeAck
  | tmoSizeOk
  | tmoChunk
  | tmoImageOk
  deriving DecidableEq, Repr

/-- The offset of a register in the window (R52). -/
def Reg.offset : Reg → Nat
  | .id => 0x00
  | .irqEn => 0x04
  | .irqPend => 0x08
  | .status => 0x0C
  | .cmd => 0x10
  | .argLo => 0x14
  | .argHi => 0x18
  | .crcReg => 0x1C
  | .crcOut => 0x20
  | .scan => 0x24
  | .budget => 0x28
  | .rxdata => 0x2C
  | .offLo => 0x30
  | .offHi => 0x34
  | .lenLo => 0x38
  | .lenHi => 0x3C
  | .idxLo => 0x40
  | .idxHi => 0x44
  | .expcrc => 0x48
  | .retries => 0x4C
  | .txerrs => 0x50
  | .tmoSizeAck => 0x54
  | .tmoSizeOk => 0x58
  | .tmoChunk => 0x5C
  | .tmoImageOk => 0x60

/-- The register at an offset; none at the reserved offsets 0x64-0xFC (R52). -/
def Reg.ofOffset? (off : Nat) : Option Reg :=
  match off with
  | 0x00 => some .id
  | 0x04 => some .irqEn
  | 0x08 => some .irqPend
  | 0x0C => some .status
  | 0x10 => some .cmd
  | 0x14 => some .argLo
  | 0x18 => some .argHi
  | 0x1C => some .crcReg
  | 0x20 => some .crcOut
  | 0x24 => some .scan
  | 0x28 => some .budget
  | 0x2C => some .rxdata
  | 0x30 => some .offLo
  | 0x34 => some .offHi
  | 0x38 => some .lenLo
  | 0x3C => some .lenHi
  | 0x40 => some .idxLo
  | 0x44 => some .idxHi
  | 0x48 => some .expcrc
  | 0x4C => some .retries
  | 0x50 => some .txerrs
  | 0x54 => some .tmoSizeAck
  | 0x58 => some .tmoSizeOk
  | 0x5C => some .tmoChunk
  | 0x60 => some .tmoImageOk
  | _ => none

/-- The constant of the ID register, the ASCII bytes "TRB1" (R53). -/
def idConstant : Word := 0x54524231

/-- Bits [31:0] of a 64-bit register (R52, R70). -/
def lowWord (v : DWord) : Word := v.extractLsb' 0 32

/-- Bits [63:32] of a 64-bit register (R52, R70). -/
def highWord (v : DWord) : Word := v.extractLsb' 32 32

/-- The 64-bit register of two words (R52, R70). -/
def joinWords (high low : Word) : DWord := (high.setWidth 64 <<< 32) ||| low.setWidth 64

/-- `RegRead`: the value of a register (R52 to R55). Bits a register does not list read 0; CMD is write-only and reads
0. -/
def Block.readReg (b : Block) : Reg → Word
  | .id => idConstant
  | .irqEn => b.irqEn.setWidth 32
  | .irqPend => b.irqPend.setWidth 32
  | .status => b.status
  | .cmd => 0
  | .argLo => lowWord b.arg
  | .argHi => highWord b.arg
  | .crcReg => b.crcReg.setWidth 32
  | .crcOut => (crcFinal b.crcReg).setWidth 32
  | .scan => b.scanReg
  | .budget => b.budget
  | .rxdata => b.rxdata.setWidth 32
  | .offLo => lowWord b.off
  | .offHi => highWord b.off
  | .lenLo => lowWord b.len
  | .lenHi => highWord b.len
  | .idxLo => lowWord b.idx
  | .idxHi => highWord b.idx
  | .expcrc => b.expcrc.setWidth 32
  | .retries => b.retries
  | .txerrs => b.txerrs
  | .tmoSizeAck => b.tmoSizeAck
  | .tmoSizeOk => b.tmoSizeOk
  | .tmoChunk => b.tmoChunk
  | .tmoImageOk => b.tmoImageOk

/-- `RegRead(off)` at any offset of the window: reserved offsets read 0 (R52). -/
def Block.regRead (off : Nat) (b : Block) : Word :=
  match Reg.ofOffset? off with
  | some r => b.readReg r
  | none => 0

/-- `RegWrite` to a register other than CMD (R52, R67, R247): RW stores, RW1C clears the bits written as 1, RO
ignores. -/
def Block.writeReg (v : Word) (b : Block) : Reg → Block
  | .irqEn => { b with irqEn := v.setWidth 8 }
  | .irqPend => { b with irqPend := b.irqPend &&& ~~~(v.setWidth 8) }
  | .argLo => { b with arg := joinWords (highWord b.arg) v }
  | .argHi => { b with arg := joinWords v (lowWord b.arg) }
  | .tmoSizeAck => { b with tmoSizeAck := v }
  | .tmoSizeOk => { b with tmoSizeOk := v }
  | .tmoChunk => { b with tmoChunk := v }
  | .tmoImageOk => { b with tmoImageOk := v }
  | .id => b
  | .status => b
  | .cmd => b
  | .crcReg => b
  | .crcOut => b
  | .scan => b
  | .budget => b
  | .rxdata => b
  | .offLo => b
  | .offHi => b
  | .lenLo => b
  | .lenHi => b
  | .idxLo => b
  | .idxHi => b
  | .expcrc => b
  | .retries => b
  | .txerrs => b

/-- A write of `w` to CMD: decode, then the command's meaning, or the decoder's command error (R64, R85). -/
def State.command (w : Word) (s : State) : Host.Outcome State Fault Refusal :=
  match decode w with
  | .ok i => exec i s
  | .error e => s.raise (errOfDecode e)

/-- `RegWrite(off, v)` at any offset of the window; a write to a reserved offset is ignored (R52, R60). -/
def State.regWrite (off : Nat) (v : Word) (s : State) : Host.Outcome State Fault Refusal :=
  match Reg.ofOffset? off with
  | some .cmd => s.command v
  | some r => .next (s.mapBlk fun b => b.writeReg v r)
  | none => .next s

/-- The byte address of an access in the controller's address space (R60). -/
def Access.address (p : Params) (a : Access) : Nat := p.base + a.off

/-- "Only aligned 32-bit accesses are defined" (R65). BASE is a multiple of 4, so the address is one exactly when the
offset is (log 4). -/
def Access.defined (a : Access) : Bool := a.width == 4 && a.off % 4 == 0

/-- Whether an access falls in the 0x100 bytes of the window (R52, R71). -/
def Access.inWindow (a : Access) : Bool := decide (a.off < 0x100)

/-- What a defined access inside the window does (R60, R67). A read changes nothing of the block; its value goes to the
controller. -/
def State.serve (a : Access) (s : State) : Host.Outcome State Fault Refusal :=
  match a.kind with
  | .read => .next { s with reads := s.reads ++ [s.blk.regRead a.off] }
  | .write v => s.regWrite a.off v

/-- One access of the controller (R60, R65, R71). -/
def State.access (a : Access) (s : State) : Host.Outcome State Fault Refusal :=
  if a.defined then
    if a.inWindow then s.serve a else .fault .outsideWindow
  else .refused .undefinedAccess

end Sys2Proof.Machine
end

