-- ==== Sys2Proof/Machine/Agents.lean ====
section
/-! DEFINITION. One step of each agent (20_memory.md R72): a controller access, an append of the channel, a turn of the
RX port, and reset (70_reset_and_hazards.md R270, R271); and how a command reaches the block. -/

namespace Sys2Proof.Machine

/-- Reset "writes every piece of block state" (R270) and "does not touch the channel" (R271). The counter of the free
values moves on, so that each reset leaves unspecified target bytes of its own (log 5). -/
def State.resetStep (s : State) : State :=
  { s with blk := Block.reset s.par s.chan.fresh, chan.fresh := s.chan.fresh + 1 }

/-- What one stimulus does (R60, R61, R72, R270). -/
def State.stimulate (x : Stimulus) (s : State) : Host.Outcome State Fault Refusal :=
  match x with
  | .access a => s.access a
  | .append e => .next { s with chan.rxq := s.chan.rxq ++ [e] }
  | .rx => .next s.rxStep
  | .reset => .next s.resetStep

/-- The controller's read of a register (R60). -/
def Stimulus.readOf (r : Reg) : Stimulus :=
  .access { width := 4, off := r.offset, kind := .read }

/-- The controller's write of a register (R60). -/
def Stimulus.writeOf (r : Reg) (v : Word) : Stimulus :=
  .access { width := 4, off := r.offset, kind := .write v }

/-- The push of a command word: the 32-bit write of `w` to CMD (R64). -/
def Stimulus.commandOf (w : Word) : Stimulus := .writeOf .cmd w

/-- The state whose next step is the push of `w`: what `State.withFetchWord` places (R21, log 8). -/
def State.withCommand (w : Word) (s : State) : State :=
  { s with script := Stimulus.commandOf w :: s.script }

end Sys2Proof.Machine
end

