-- ==== Sys2Proof/Machine/Step.lean ====
section
/-! DEFINITION. One step of the machine: the next stimulus of the total order of R72, one whole agent step (R10). -/

namespace Sys2Proof.Machine

/-- The machine's step. "With no event and no command, no step happens and the state does not change" (R258), so an
empty script leaves the state as it is (log 1). -/
def step (s : State) : Host.Outcome State Fault Refusal :=
  match s.script with
  | [] => .next s
  | x :: rest => State.stimulate x { s with script := rest }

/-- The state whose very next step runs the command word `w` (its bits from `nbits` on are 0): the controller's write of
it to CMD stands first in the script. The block fetches nothing (R21, R75), so this is how a command comes to it
(log 8). -/
def State.withFetchWord (s : State) (nbits w : Nat) : State :=
  s.withCommand (BitVec.ofNat 32 (w % 2 ^ nbits))

end Sys2Proof.Machine
end

