-- ==== Sys2Proof/Machine/Assembly.lean ====
section
/-! DEFINITION. The assembly language of controller programs (30_encoding.md R88, R89): each line as the controller
accesses it stands for. -/

namespace Sys2Proof.Machine

/-- The kind byte of a token kind (R82). -/
def TokKind.toByte : TokKind → Byte
  | .rdy => 0
  | .ack => 1
  | .ok => 2

/-- One line of a controller program (R88) or pseudo-instruction (R89). `wait.status` and `wait.irq` are polling loops
"of the controller. Their termination is a property of the run, not of the block": a line says how many reads the loop
makes, and `waitMet` says that this count is the loop's (log 15). -/
inductive AsmLine where
  | wr (r : Reg) (v : Word)
  | rd (r : Reg)
  | cmd (i : Instr)
  | liArg (v : DWord)
  | crcStr (s : List Byte)
  | scnSet (s : List Byte)
  | txStr (s : List Byte)
  | waitStatus (m v : Word) (reads : Nat)
  | waitIrq (m : Word) (reads : Nat)
  deriving DecidableEq, Repr

/-- The controller's push of a command: `wr CMD, w` with w its command word (R88). -/
def pushInstr (i : Instr) : Stimulus := .commandOf (encode i)

/-- The accesses a line stands for, in program order (R88, R89). -/
def AsmLine.expand : AsmLine → List Stimulus
  | .wr r v => [.writeOf r v]
  | .rd r => [.readOf r]
  | .cmd i => [pushInstr i]
  | .liArg v => [.writeOf .argLo (lowWord v), .writeOf .argHi (highWord v)]
  | .crcStr s => s.map fun b => pushInstr (.crcByte b)
  | .scnSet s => pushInstr .scnClr :: s.map fun b => pushInstr (.scnPush b)
  | .txStr s => s.map fun b => pushInstr (.txByte b)
  | .waitStatus _ _ n => List.replicate n (.readOf .status)
  | .waitIrq _ n => List.replicate n (.readOf .irqPend)

/-- The condition that ends a polling loop (R89), on the value one read returned. -/
def AsmLine.loopEnds : AsmLine → Word → Bool
  | .waitStatus m v _, x => x &&& m == v
  | .waitIrq m _, x => x &&& m != 0
  | _, _ => true

/-- Whether the values that the reads of a polling line returned are those of the loop: the last one ends it and no
earlier one does. -/
def AsmLine.waitMet (l : AsmLine) (values : List Word) : Bool :=
  match values.getLast? with
  | some x => l.loopEnds x && values.dropLast.all fun y => !l.loopEnds y
  | none => false

/-- The accesses of a controller program, in order. -/
def assemble (p : List AsmLine) : List Stimulus := p.flatMap AsmLine.expand

end Sys2Proof.Machine
end

