-- ==== Sys2Proof/Machine/Link.lean ====
section
/-! DEFINITION. A system of two instances, one at each end of the link (00_scope.md R2, 60_exceptions.md R256), coupled
only by the channel, whose behaviour is the parameter `CHANNEL` of the system (20_memory.md R77). -/

namespace Sys2Proof.Machine

/-- The parameter `CHANNEL` of the system model: "`CHANNEL = ideal` delivers each direction's bytes in order, without loss,
duplication or change, at unbounded delay, and inserts `Error` never. `CHANNEL = any` may deliver any sequence" (R77). -/
inductive ChannelKind where
  | ideal
  | any
  deriving DecidableEq, Repr

/-- The two ends, how many bytes of each TX stream have been delivered to the other end's RX queue, and the parameter
`CHANNEL`, which no move changes. The coming steps stand in the moves, so the ends' own scripts are not used (log 13). -/
structure Link where
  channel : ChannelKind
  host : State
  firmware : State
  hostSent : Nat
  firmwareSent : Nat
  deriving DecidableEq, Repr

/-- A step of one end's own agents (R72): an access of its controller, a turn of its RX port, or its reset ("Both instances
reset independently", R256). An append to the RX queue is the channel's step, so it is none of these. -/
inductive EndMove where
  | access (a : Access)
  | rx
  | reset
  deriving DecidableEq, Repr

/-- The end's step as a stimulus of its instance. -/
def EndMove.stimulus : EndMove → Stimulus
  | .access a => .access a
  | .rx => .rx
  | .reset => .reset

/-- Which agent of the system moves (R72): an end, or the channel, which carries the next byte of a direction or, with
`CHANNEL = any`, puts an element of its own choice in an RX queue. -/
inductive LinkMove where
  | host (x : EndMove)
  | firmware (x : EndMove)
  | carryToFirmware
  | carryToHost
  | insertToFirmware (e : RxElem)
  | insertToHost (e : RxElem)
  deriving DecidableEq, Repr

/-- The channel puts one element at the end of an RX queue (R61). -/
def State.receive (e : RxElem) (s : State) : State := { s with chan.rxq := s.chan.rxq ++ [e] }

/-- The element a channel may put in an RX queue at its own choice: none with `CHANNEL = ideal`, any with
`CHANNEL = any` (R77). -/
def ChannelKind.inserted (e : RxElem) : ChannelKind → Option RxElem
  | .ideal => none
  | .any => some e

/-- The state of an end after the channel's choice. -/
def State.receive? (e : Option RxElem) (s : State) : State :=
  match e with
  | some x => s.receive x
  | none => s

/-- One move of the system (R77). A carry delivers the next byte of its direction, "in order, without loss, duplication or
change". A carry with nothing to deliver, and an insertion by the ideal channel, are no steps and change nothing
(log 13). -/
def Link.move (m : LinkMove) (l : Link) : Host.Outcome Link Fault Refusal :=
  match m with
  | .host x =>
    match State.stimulate x.stimulus l.host with
    | .next s => .next { l with host := s }
    | .fault r => .fault r
    | .refused r => .refused r
  | .firmware x =>
    match State.stimulate x.stimulus l.firmware with
    | .next s => .next { l with firmware := s }
    | .fault r => .fault r
    | .refused r => .refused r
  | .carryToFirmware =>
    match l.host.chan.tx[l.hostSent]? with
    | some b => .next { l with firmware := l.firmware.receive (.byte b), hostSent := l.hostSent + 1 }
    | none => .next l
  | .carryToHost =>
    match l.firmware.chan.tx[l.firmwareSent]? with
    | some b => .next { l with host := l.host.receive (.byte b), firmwareSent := l.firmwareSent + 1 }
    | none => .next l
  | .insertToFirmware e => .next { l with firmware := l.firmware.receive? (l.channel.inserted e) }
  | .insertToHost e => .next { l with host := l.host.receive? (l.channel.inserted e) }

end Sys2Proof.Machine
end

