-- ==== Sys2Proof/Safety.lean ====
section
/-! DEFINITION. The terms the statements are made in: the legality table of 60_exceptions.md R242, the references that
the CRC and the decimal codec are compared with, runs of several steps, and the invariants of a sound run. -/

namespace Sys2Proof.Machine

/-- "The command's own checks, in the order of this table" (R242, check 5), with the kind check 4 for terms that have
no encoding. -/
def legalityError (i : Instr) (b : Block) : Option ErrCode :=
  match i with
  | .nop => none
  | .crcInit => none
  | .crcByte _ => none
  | .tokEmit k => if 2 < k.toNat then some .badKind else if b.phase ≠ .idle then some .busy else none
  | .scnTok k =>
    if 2 < k.toNat then some .badKind
    else if b.phase ≠ .idle ∨ b.smode ≠ .idle then some .busy else none
  | .scnClr => if b.phase ≠ .idle ∨ b.smode ≠ .idle then some .busy else none
  | .scnPush _ =>
    if b.phase ≠ .idle ∨ b.smode ≠ .idle then some .busy
    else if b.tlen.toNat = tokenMax then some .targetFull else none
  | .scnRun => if b.phase ≠ .idle ∨ b.smode ≠ .idle then some .busy else none
  | .scnRunb => if b.phase ≠ .idle ∨ b.smode ≠ .idle then some .busy else none
  | .arbSend => if b.phase ≠ .idle ∨ b.smode ≠ .idle then some .busy else none
  | .arbRecv => if b.phase ≠ .idle ∨ b.smode ≠ .idle then some .busy else none
  | .arbAlloc => if b.phase ≠ .rAllocWait then some .wrongPhase else none
  | .arbNoalloc => if b.phase ≠ .rAllocWait then some .wrongPhase else none
  | .rxTake =>
    if b.phase ≠ .rReceiveImage then some .wrongPhase
    else if b.held = false then some .nothingHeld else none
  | .arbClear => if b.phase.terminal = false then some .wrongPhase else none
  | .txByte _ => if b.phase ≠ .idle ∧ b.phase ≠ .sSendChunk then some .wrongPhase else none

/-- The opcodes of format N (R84). -/
def formatNOpcodes : List Byte := [0x00, 0x10, 0x22, 0x24, 0x25, 0x30, 0x31, 0x32, 0x33, 0x34, 0x35]

/-- The opcodes of format I whose IMM8 is a data byte (R82, R84). -/
def dataOpcodes : List Byte := [0x11, 0x23, 0x36]

/-- The opcodes of format I whose IMM8 is a token kind (R82, R84). -/
def kindOpcodes : List Byte := [0x20, 0x21]

/-- The opcodes of R84. -/
def tableOpcodes : List Byte := formatNOpcodes ++ dataOpcodes ++ kindOpcodes

/-- The decoder's refusal of a word, from the text of R85 alone. -/
def wordRefusal (w : Word) : Option DecodeError :=
  if rsvField w ≠ 0 then some .reservedBits
  else if opField w ∉ tableOpcodes then some .badOpcode
  else if opField w ∈ formatNOpcodes ∧ immField w ≠ 0 then some .reservedBits
  else if opField w ∈ kindOpcodes ∧ 2 < (immField w).toNat then some .badKind
  else none

/-- The bits of a value in reverse order. -/
def reflect {w : Nat} (v : BitVec w) : BitVec w := BitVec.ofFnLE fun k => v.getMsbD k.val

/-- One turn of a left-shifting CRC register on the polynomial 0x1021. -/
def crcShiftLeft (c : Half) : Half := if c.getMsbD 0 then (c <<< 1) ^^^ 0x1021 else c <<< 1

/-- A byte into the left-shifting register, its bits reflected first. -/
def crcUpdLeft (c : Half) (b : Byte) : Half :=
  Nat.repeat crcShiftLeft 8 (c ^^^ ((reflect b).setWidth 16 <<< 8))

/-- The checksum straight from the parameters of R100: polynomial 0x1021, initial register 0xFFFF, reflected input and
output, final XOR 0xFFFF. -/
def checksumByParameters (s : List Byte) : Half := reflect (s.foldl crcUpdLeft 0xFFFF) ^^^ 0xFFFF

/-- The number that a string of ASCII digits writes, most significant digit first. -/
def decimalValue (s : List Byte) : Nat := s.foldl (fun v d => 10 * v + (d.toNat - 0x30)) 0

/-- Whether a byte is an ASCII digit. -/
def isDigit (d : Byte) : Bool := decide (0x30 ≤ d.toNat ∧ d.toNat ≤ 0x39)

/-- The codes of the phases, the table of R23. -/
def phaseCodes : List (Phase × BitVec 5) :=
  [(.idle, 0x00), (.sAwaitReady, 0x01), (.sSendSize, 0x02), (.sAwaitSizeAck, 0x03), (.sAwaitSizeOk, 0x04),
    (.sSendChunk, 0x05), (.sAwaitChunkAck, 0x06), (.sAwaitImageOk, 0x07), (.sDone, 0x08), (.sAborted, 0x09)] ++
  [(.rInit, 0x11), (.rRequestImage, 0x12), (.rReceiveSize, 0x13), (.rConfirmSize, 0x14), (.rAllocWait, 0x15),
    (.rReceiveImage, 0x16), (.rConfirmImage, 0x17), (.rHandoff, 0x18), (.rHalted, 0x19)]

/-- The codes of the causes (R27). -/
def causeCodes : List (Cause × BitVec 3) :=
  [(.none, 0), (.sizeAckTimeout, 1), (.sizeOkTimeout, 2), (.imageOkTimeout, 3), (.txError, 4), (.allocFailure, 5)]

/-- The codes of the scanner modes (R32). -/
def modeCodes : List (ScanMode × BitVec 2) := [(.idle, 0), (.unbounded, 1), (.bounded, 2)]

/-- The codes of the scan results (R34). -/
def resultCodes : List (ScanResult × BitVec 2) := [(.none, 0), (.matched, 1), (.timedOut, 2)]

/-- The codes of the command errors, the table of R240. -/
def errorCodes : List (ErrCode × BitVec 3) :=
  [(.none, 0), (.reservedBits, 1), (.badOpcode, 2), (.badKind, 3), (.busy, 4), (.wrongPhase, 5), (.targetFull, 6),
    (.nothingHeld, 7)]

/-- A sequence of commands, each executed in turn. -/
def execAll : List Instr → State → Host.Outcome State Fault Refusal
  | [], s => .next s
  | i :: is, s =>
    match exec i s with
    | .next t => execAll is t
    | .fault r => .fault r
    | .refused r => .refused r

/-- TXERRS after a TX transaction with a draw, when a failure counts (R48, R62). -/
def errCount (d : TxDraw) (n : Word) : Word :=
  match d with
  | .ok => n
  | .err _ => satInc32 n

/-- `n` turns of the RX port. -/
def State.rxTurns : Nat → State → State
  | 0, s => s
  | n + 1, s => s.rxStep.rxTurns n

/-- A byte string as elements of the RX queue. -/
def arriving (s : List Byte) : List RxElem := s.map .byte

/-- The phases that may follow a phase in one step that is not a reset (R24, R175, and the rules of the receiver). -/
def Phase.follows : Phase → List Phase
  | .idle => [.sAwaitReady, .rReceiveSize]
  | .sAwaitReady => [.sAwaitSizeAck, .sAborted]
  | .sAwaitSizeAck => [.sAwaitSizeOk, .sAborted]
  | .sAwaitSizeOk => [.sSendChunk, .sAwaitImageOk, .sAborted]
  | .sSendChunk => [.sAwaitChunkAck, .sAborted]
  | .sAwaitChunkAck => [.sSendChunk, .sAwaitImageOk]
  | .sAwaitImageOk => [.sDone, .sAborted]
  | .sDone => [.idle]
  | .sAborted => [.idle]
  | .rReceiveSize => [.rAllocWait]
  | .rAllocWait => [.rReceiveImage, .rHandoff, .rHalted]
  | .rReceiveImage => [.rHandoff]
  | .rHandoff => [.idle]
  | .rHalted => [.idle]
  | .sSendSize => []
  | .rInit => []
  | .rRequestImage => []
  | .rConfirmSize => []
  | .rConfirmImage => []

/-- What the scanner runs in each phase: the table of R161, "`smode` stays IDLE" for the receiver (R201), and no scan in
the phases that wait for the controller or have ended. -/
def Block.waitOk (b : Block) : Prop :=
  match b.phase with
  | .idle => True
  | .sAwaitReady => b.smode = .unbounded ∧ b.target = tok .rdy 256
  | .sAwaitSizeAck => b.smode = .bounded ∧ b.target = tok .ack 0 ∧ b.expcrc = checksum (be8 b.len)
  | .sAwaitSizeOk =>
    b.smode = .bounded ∧ b.target = tok .ok (crcNumber b.expcrc) ∧ b.expcrc = checksum (be8 b.len)
  | .sAwaitChunkAck => b.smode = .bounded ∧ b.target = tok .ack b.idx
  | .sAwaitImageOk =>
    b.smode = .bounded ∧ b.target = tok .ok (crcNumber b.expcrc) ∧ b.expcrc = crcFinal b.acc
  | _ => b.smode = .idle

/-- Chunk `idx` exists and `off` is the offset of a byte of it that is still to come. -/
def Block.insideChunk (b : Block) : Prop :=
  b.idx < nchunks b.len ∧ chunkStart b.idx ≤ b.off ∧ b.off < chunkEnd b.len b.idx

/-- Where IDX and OFF stand in each phase (R41, R42). -/
def Block.progressOk (b : Block) : Prop :=
  match b.phase with
  | .sAwaitReady => b.idx = 0 ∧ b.off = 0
  | .sAwaitSizeAck => b.idx = 0 ∧ b.off = 0
  | .sAwaitSizeOk => b.idx = 0 ∧ b.off = 0
  | .sSendChunk => b.insideChunk
  | .sAwaitChunkAck => b.idx < nchunks b.len ∧ b.off = chunkEnd b.len b.idx
  | .sAwaitImageOk => b.off = b.len
  | .sDone => b.off = b.len
  | .rReceiveSize => b.idx = 0 ∧ b.off < 8
  | .rAllocWait => b.idx = 0 ∧ b.off = 0
  | .rReceiveImage => b.insideChunk
  | .rHandoff => b.off = b.len
  | _ => True

/-- Which causes each phase shows (R27). -/
def Block.causeOk (b : Block) : Prop :=
  match b.phase with
  | .sAborted => b.cause ≠ .none ∧ b.cause ≠ .allocFailure
  | .rHalted => b.cause = .allocFailure
  | _ => b.cause = .none

/-- The invariant of the block: what every reachable state satisfies. -/
structure Block.Inv (b : Block) : Prop where
  /-- `0 <= tlen <= TOKEN_MAX` (R30). -/
  tlenLe : b.tlen.toNat ≤ tokenMax
  /-- `0 <= cur <= tlen` (R31). -/
  curLe : b.cur.toNat ≤ b.tlen.toNat
  /-- "invariant while smode != IDLE: 0 <= cur < tlen" (R128), and no result yet (R34). -/
  scanning : b.smode ≠ .idle → b.cur.toNat < b.tlen.toNat ∧ b.sres = .none
  /-- "At MATCH it equals tlen" (R31). -/
  matchedCur : b.sres = .matched → b.cur = b.tlen
  /-- No transient phase is held between steps (R25). -/
  steady : b.phase.transient = false
  /-- HELD = 1 only in R_RECEIVE_IMAGE (R43). -/
  heldPhase : b.held = true → b.phase = .rReceiveImage
  wait : b.waitOk
  progress : b.progressOk
  causes : b.causeOk

/-- The controller's duties as a sender that bear on the checksum (R284): ARG holds the image length at ARB.SEND, and
each payload byte is the image's byte at OFF. -/
def SenderDuty (image : List Byte) (s : State) : Prop :=
  (s.script.head? = some (pushInstr .arbSend) → image.length = s.blk.arg.toNat) ∧
  (∀ x, s.script.head? = some (pushInstr (.txByte x)) → s.blk.phase = .sSendChunk →
    image[s.blk.off.toNat]? = some x)

/-- The sender's accumulators over an image (R45, R173): SNAP over the chunks before IDX, ACC over the bytes before OFF,
and in the end `EXPCRC = checksum(Image)`. -/
def SenderSum (image : List Byte) (b : Block) : Prop :=
  match b.phase with
  | .sAwaitReady => image.length = b.len.toNat
  | .sAwaitSizeAck => image.length = b.len.toNat
  | .sAwaitSizeOk => image.length = b.len.toNat
  | .sSendChunk =>
    image.length = b.len.toNat ∧ b.snap = crcRun crcInitial (image.take (chunkStart b.idx).toNat) ∧
      b.acc = crcRun crcInitial (image.take b.off.toNat)
  | .sAwaitChunkAck =>
    image.length = b.len.toNat ∧ b.snap = crcRun crcInitial (image.take (chunkStart b.idx).toNat) ∧
      b.acc = crcRun crcInitial (image.take b.off.toNat)
  | .sAwaitImageOk => b.expcrc = checksum image
  | .sDone => b.expcrc = checksum image
  | _ => True

/-- The first `n` bytes of the controller's destination buffer. -/
def bufferBytes (buf : Nat → Byte) (n : Nat) : List Byte := (List.range n).map buf

/-- The controller's duty as a receiver that bears on the checksum (R284): RXDATA stands at buffer offset OFF before
RX.TAKE. -/
def ReceiverDuty (buf : Nat → Byte) (s : State) : Prop :=
  s.script.head? = some (pushInstr .rxTake) → s.blk.phase = .rReceiveImage → s.blk.held = true →
    buf s.blk.off.toNat = s.blk.rxdata

/-- The receiver's accumulators over the bytes it kept (R204, R205, R218). -/
def ReceiverSum (buf : Nat → Byte) (b : Block) : Prop :=
  match b.phase with
  | .rReceiveSize =>
    b.snap = crcInitial ∧ b.len.toNat < 2 ^ (8 * b.off.toNat) ∧
      b.acc = crcRun crcInitial ((be8 b.len).drop (8 - b.off.toNat))
  | .rAllocWait => b.snap = crcInitial ∧ b.acc = crcInitial ∧ b.expcrc = checksum (be8 b.len)
  | .rReceiveImage =>
    b.snap = crcRun crcInitial (bufferBytes buf (chunkStart b.idx).toNat) ∧
      b.acc = crcRun crcInitial (bufferBytes buf b.off.toNat ++ if b.held then [b.rxdata] else [])
  | .rHandoff => b.expcrc = checksum (bufferBytes buf b.len.toNat)
  | _ => True

end Sys2Proof.Machine
end

