-- ==== Sys2Proof/Certificates/Slice0/Obligations.lean ====
section
/-! DEFINITION. The statements for the provers. Each docstring names the rules of spec/ the statement comes from. Where a
statement speaks of a TX transaction it holds for every draw of the channel (`s.chan.draw`, listed or free), and where it
speaks of QUANTUM or a TMO reset value it holds for every value of the parameters. -/

open Sys2Proof Sys2Proof.Machine

/-! ## Encoding -/

/-- Decode and encode agree on every well-formed command, with every operand at every value (R80 to R85). -/
def Obligations.DecodeOfEncodeIsIdentity : Prop :=
  ∀ i : Instr, i.wf = true → decode (encode i) = .ok i

/-- Every word has at most one meaning: a decoded word is the encoding of its command, which is well formed (R80 to
R86). -/
def Obligations.DecodedWordIsItsEncoding : Prop :=
  ∀ (w : Word) (i : Instr), decode w = .ok i → i.wf = true ∧ encode i = w

/-- The decoder is total and applies the checks of R85 in order; a refused word raises its command error and nothing
else runs. -/
def Obligations.DecoderChecksInOrder : Prop :=
  ∀ (w : Word) (s : State),
    (∀ e, wordRefusal w = some e → decode w = .error e ∧ s.command w = .next (s.cmdError (errOfDecode e))) ∧
    (wordRefusal w = none → ∃ i, decode w = .ok i ∧ i.opcode = opField w ∧ i.imm8 = immField w)

/-- Words written out from 30_encoding.md section 3 decode to the commands they stand for, and three bad ones are
refused by name. -/
def Obligations.TableWordsDecode : Prop :=
  decode 0x00000000 = .ok .nop ∧ decode 0x00000010 = .ok .crcInit ∧ decode 0x00003111 = .ok (.crcByte 0x31) ∧
  decode 0x00000220 = .ok (.tokEmit 2) ∧ decode 0x00000121 = .ok (.scnTok 1) ∧ decode 0x00000022 = .ok .scnClr ∧
  decode 0x00004123 = .ok (.scnPush 0x41) ∧ decode 0x00000024 = .ok .scnRun ∧ decode 0x00000025 = .ok .scnRunb ∧
  decode 0x00000030 = .ok .arbSend ∧ decode 0x00000031 = .ok .arbRecv ∧ decode 0x00000032 = .ok .arbAlloc ∧
  decode 0x00000033 = .ok .arbNoalloc ∧ decode 0x00000034 = .ok .rxTake ∧ decode 0x00000035 = .ok .arbClear ∧
  decode 0x00004136 = .ok (.txByte 0x41) ∧ decode 0x00FF0021 = .error .reservedBits ∧
  decode 0x00000101 = .error .badOpcode ∧ decode 0x00000321 = .error .badKind

/-! ## Steps, commands and command errors -/

/-- A step whose stimulus is a 32-bit write of CMD runs the decoded command on the state less that stimulus, or raises
the decoder's error; CMD has no storage and reads 0 (R64). With no stimulus the state does
not change (R258, the model's choice of log 1: the machine still answers with a step). -/
def Obligations.StepRunsTheDecodedCommand : Prop :=
  (∀ (s : State) (w : Word) (rest : List Stimulus), s.script = .commandOf w :: rest →
    (∀ i, decode w = .ok i → step s = exec i { s with script := rest }) ∧
    (∀ e, decode w = .error e → step s = .next (State.cmdError (errOfDecode e) { s with script := rest })) ∧
    s.blk.regRead 0x10 = 0) ∧
  (∀ s : State, s.script = [] → step s = .next s)

/-- A command error writes ERRCODE and IRQ_PEND.CMDERR and nothing else; ERRCODE keeps it through every command that raises
no error, and through every step until the next command error or reset (R241). -/
def Obligations.CommandErrorIsPrecise : Prop :=
  (∀ (c : ErrCode) (s : State),
    s.raise c = .next { s with blk := { s.blk with errcode := c, irqPend := s.blk.irqPend ||| 0x40 } }) ∧
  (∀ (i : Instr) (s t : State), legalityError i s.blk = none → exec i s = .next t → t.blk.errcode = s.blk.errcode) ∧
  (∀ s t : State, step s = .next t →
    t.blk.errcode = s.blk.errcode ∨ s.script.head? = some .reset ∨
    ∃ (w : Word) (rest : List Stimulus) (c : ErrCode), s.script = .commandOf w :: rest ∧
      t = State.cmdError c { s with script := rest })

/-- The legality checks in the order of R242: the decoder's checks first, then the command's own; the first that fails
is the one raised. A command that passes them all completes in a next state. -/
def Obligations.LegalityChecksInOrder : Prop :=
  (∀ (w : Word) (e : DecodeError) (s : State), wordRefusal w = some e →
    s.command w = .next (s.cmdError (errOfDecode e))) ∧
  (∀ (i : Instr) (e : ErrCode) (s : State), legalityError i s.blk = some e → exec i s = .next (s.cmdError e)) ∧
  (∀ (i : Instr) (s : State), legalityError i s.blk = none →
    ∃ t, exec i s = .next t ∧ t.blk.errcode = s.blk.errcode)

/-- NOP does nothing in every state; a word with its opcode and any other bit set raises RESERVED_BITS (R231). -/
def Obligations.NopChangesNothing : Prop :=
  (∀ s : State, exec .nop s = .next s) ∧ decode 0 = .ok .nop ∧
  (∀ (w : Word) (s : State), opField w = 0x00 → w ≠ 0 → s.command w = .next (s.cmdError .reservedBits))

/-! ## The CRC unit -/

/-- CRC.INIT writes 0xFFFF to CRC_REG and nothing else in every state, so CRC_OUT reads 0; any other word with its opcode
raises RESERVED_BITS (R104). -/
def Obligations.CrcInitWritesInitialValue : Prop :=
  (∀ s : State, exec .crcInit s = .next { s with blk := { s.blk with crcReg := 0xFFFF } }) ∧
  (∀ s t : State, exec .crcInit s = .next t → t.blk.regRead 0x1C = 0xFFFF ∧ t.blk.regRead 0x20 = 0 ∧
    exec .crcInit t = .next t) ∧
  decode 0x00000010 = .ok .crcInit ∧
  (∀ (w : Word) (s : State), opField w = 0x10 → w ≠ 0x00000010 → s.command w = .next (s.cmdError .reservedBits))

/-- CRC.BYTE feeds its byte to CRC_REG and changes nothing else, in every state and for every byte; a word with RSV bits
raises RESERVED_BITS (R105). -/
def Obligations.CrcByteFeedsOneByte : Prop :=
  (∀ (x : Byte) (s : State),
    exec (.crcByte x) s = .next { s with blk := { s.blk with crcReg := crcUpd s.blk.crcReg x } }) ∧
  (∀ x : Byte, decode (commandWord 0x11 x) = .ok (.crcByte x)) ∧
  (∀ (w : Word) (s : State), opField w = 0x11 → rsvField w ≠ 0 → s.command w = .next (s.cmdError .reservedBits)) ∧
  crcUpd 0xFFFF 0x00 = 0x0F87 ∧ crcUpd 0xFFFF 0x31 = 0x2F8D ∧ crcFinal 0x2F8D = 0xD072

/-- CRC.INIT followed by CRC.BYTE for each byte of `s` leaves the register of `checksum(s)`, and CRC_OUT reads
`checksum(s)`; the check value of "123456789" is 0x906E (R103, R106, R110). -/
def Obligations.CrcCommandsComputeTheChecksum : Prop :=
  (∀ (s : State) (bytes : List Byte), ∃ t,
    execAll (.crcInit :: bytes.map .crcByte) s = .next t ∧
    t = { s with blk := { s.blk with crcReg := crcFinal (checksum bytes) } } ∧
    t.blk.regRead 0x20 = (checksum bytes).setWidth 32) ∧
  checksum [0x31, 0x32, 0x33, 0x34, 0x35, 0x36, 0x37, 0x38, 0x39] = 0x906E

/-- The right-shifting algorithm of R101 to R103 computes the CRC of the parameters of R100: a left-shifting register on
0x1021 with reflected input and output. -/
def Obligations.ChecksumAgreesWithItsParameters : Prop :=
  ∀ s : List Byte, checksum s = checksumByParameters s

/-- The table form of R107 gives the same result for every register value and byte. -/
def Obligations.CrcTableFormAgrees : Prop :=
  ∀ (c : Half) (b : Byte),
    crcUpd c b = (c >>> 8) ^^^ crcUpd 0 (((c ^^^ b.setWidth 16) &&& 0xFF).setWidth 8)

/-- CRC_REG changes only by CRC.INIT, CRC.BYTE and reset: no RX step, no arbiter command and no register write touches it
(R28, R44, R110). -/
def Obligations.CrcRegChangesOnlyByItsCommands : Prop :=
  ∀ s t : State, step s = .next t →
    t.blk.crcReg = s.blk.crcReg ∨ s.script.head? = some .reset ∨
    (s.script.head? = some (pushInstr .crcInit) ∧ t.blk.crcReg = 0xFFFF) ∨
    (∃ x, s.script.head? = some (pushInstr (.crcByte x)) ∧ t.blk.crcReg = crcUpd s.blk.crcReg x)

/-! ## The token codec and the scanner -/

/-- `dec(n)` is the decimal writing of `n`: 1 to 20 digits, no leading zero, most significant first (R120). -/
def Obligations.DecWritesTheNumber : Prop :=
  ∀ n : DWord,
    1 ≤ (dec n).length ∧ (dec n).length ≤ 20 ∧ (∀ d ∈ dec n, isDigit d = true) ∧
    (n ≠ 0 → (dec n).head? ≠ some 0x30) ∧ dec 0 = [0x30] ∧ decimalValue (dec n) = n.toNat

/-- The byte strings of the table of R121: `RDY(`, `ACK(` or `OK(`, the number, `)` and a linefeed. Tokens have 6 to 26
bytes, so every token fits the target buffer, and no two tokens have the same bytes. -/
def Obligations.TokensFitAndDiffer : Prop :=
  (∀ n : DWord,
    tok .rdy n = [0x52, 0x44, 0x59, 0x28] ++ dec n ++ [0x29, 0x0A] ∧
    tok .ack n = [0x41, 0x43, 0x4B, 0x28] ++ dec n ++ [0x29, 0x0A] ∧
    tok .ok n = [0x4F, 0x4B, 0x28] ++ dec n ++ [0x29, 0x0A]) ∧
  (∀ (k : TokKind) (n : DWord), 6 ≤ (tok k n).length ∧ (tok k n).length ≤ 26) ∧
  (∀ (k l : TokKind) (n m : DWord), tok k n = tok l m → k = l ∧ n = m)

/-- TOK.EMIT with kind 0 (RDY), 1 (ACK) or 2 (OK) in IDLE sends `tok(k, ARG)`, scan or no scan, and changes TXERRS at most,
which a failure counts up to 0xFFFFFFFF; in every other phase it raises BUSY, and with a kind above 2 BAD_KIND (R122). -/
def Obligations.TokEmitSendsTheToken : Prop :=
  (∀ (k : Byte) (kind : TokKind) (s : State), (k, kind) ∈ [(0, TokKind.rdy), (1, .ack), (2, .ok)] →
    decode (commandWord 0x20 k) = .ok (.tokEmit k) ∧
    (s.blk.phase = .idle →
      exec (.tokEmit k) s = .next { s with
        chan := s.chan.send (tok kind s.blk.arg)
        blk := { s.blk with txerrs := errCount s.chan.draw s.blk.txerrs } }) ∧
    (s.blk.phase ≠ .idle → exec (.tokEmit k) s = .next (s.cmdError .busy))) ∧
  (∀ (k : Byte) (s : State), 2 < k.toNat → s.command (commandWord 0x20 k) = .next (s.cmdError .badKind)) ∧
  (∀ n : Word, errCount .ok n = n ∧ ∀ k, (errCount (.err k) n).toNat = min (n.toNat + 1) 0xFFFFFFFF)

/-- SCN.TOK with kind 0 (RDY), 1 (ACK) or 2 (OK) makes `tok(k, ARG)` the target, with cursor 0 and no result, leaves the
buffer's other bytes and everything else, and raises BUSY while a role or a scan runs; a kind above 2 raises BAD_KIND
(R123). -/
def Obligations.ScnTokLoadsTheToken : Prop :=
  (∀ (k : Byte) (kind : TokKind) (s : State), (k, kind) ∈ [(0, TokKind.rdy), (1, .ack), (2, .ok)] →
    decode (commandWord 0x21 k) = .ok (.scnTok k) ∧
    (s.blk.phase = .idle → s.blk.smode = .idle → ∃ v : Vector Byte tokenMax,
      exec (.scnTok k) s = .next { s with
        blk := { s.blk with
          tgt := v, tlen := BitVec.ofNat 5 (tok kind s.blk.arg).length, cur := 0, sres := .none } } ∧
      v.toList = tok kind s.blk.arg ++ s.blk.tgt.toList.drop (tok kind s.blk.arg).length) ∧
    (s.blk.phase ≠ .idle ∨ s.blk.smode ≠ .idle → exec (.scnTok k) s = .next (s.cmdError .busy))) ∧
  (∀ (k : Byte) (s : State), 2 < k.toNat → s.command (commandWord 0x21 k) = .next (s.cmdError .badKind))

/-- SCN.CLR empties the target, keeps the buffer's bytes and everything else, and SCAN then reads 0; it raises BUSY while
a role or a scan runs (R124). -/
def Obligations.ScnClrEmptiesTheTarget : Prop :=
  (∀ s : State, s.blk.phase = .idle → s.blk.smode = .idle → ∃ t,
    exec .scnClr s = .next t ∧ t = { s with blk := { s.blk with tlen := 0, cur := 0, sres := .none } } ∧
    t.blk.regRead 0x24 = 0) ∧
  (∀ s : State, s.blk.phase ≠ .idle ∨ s.blk.smode ≠ .idle → exec .scnClr s = .next (s.cmdError .busy)) ∧
  decode 0x00000022 = .ok .scnClr

/-- SCN.PUSH appends its byte to the target; it raises TARGET_FULL at 26 bytes and, before that, BUSY while a role or a
scan runs (R125). -/
def Obligations.ScnPushAppendsOneByte : Prop :=
  ∀ (x : Byte) (s : State),
    decode (commandWord 0x23 x) = .ok (.scnPush x) ∧
    (s.blk.phase = .idle → s.blk.smode = .idle → s.blk.tlen.toNat < tokenMax → ∃ t,
      exec (.scnPush x) s = .next t ∧
      t = { s with
        blk := { s.blk with
          tgt := s.blk.tgt.setIfInBounds s.blk.tlen.toNat x, tlen := s.blk.tlen + 1, cur := 0, sres := .none } } ∧
      t.blk.target = s.blk.target ++ [x] ∧ t.blk.tlen.toNat = s.blk.tlen.toNat + 1) ∧
    (s.blk.phase = .idle → s.blk.smode = .idle → s.blk.tlen.toNat = tokenMax →
      exec (.scnPush x) s = .next (s.cmdError .targetFull)) ∧
    (s.blk.phase ≠ .idle ∨ s.blk.smode ≠ .idle → exec (.scnPush x) s = .next (s.cmdError .busy))

/-- SCN.RUN starts an unbounded scan of the loaded target, or matches at once on an empty one; the budget and everything
else stays (R126). -/
def Obligations.ScnRunStartsAnUnboundedScan : Prop :=
  ∀ s : State,
    (s.blk.phase = .idle → s.blk.smode = .idle → s.blk.tlen ≠ 0 →
      exec .scnRun s = .next { s with blk := { s.blk with cur := 0, sres := .none, smode := .unbounded } }) ∧
    (s.blk.phase = .idle → s.blk.smode = .idle → s.blk.tlen = 0 →
      exec .scnRun s = .next { s with
        blk := { s.blk with cur := 0, sres := .matched, smode := .idle, irqPend := s.blk.irqPend ||| 0x01 } }) ∧
    (s.blk.phase ≠ .idle ∨ s.blk.smode ≠ .idle → exec .scnRun s = .next (s.cmdError .busy))

/-- SCN.RUNB loads the budget from ARG[31:0] and starts a bounded scan, or matches at once on an empty target (R127). -/
def Obligations.ScnRunbStartsABoundedScan : Prop :=
  ∀ s : State,
    (s.blk.phase = .idle → s.blk.smode = .idle → s.blk.tlen ≠ 0 →
      exec .scnRunb s = .next { s with
        blk := { s.blk with
          cur := 0, sres := .none, smode := .bounded, budget := s.blk.arg.extractLsb' 0 32 } }) ∧
    (s.blk.phase = .idle → s.blk.smode = .idle → s.blk.tlen = 0 →
      exec .scnRunb s = .next { s with
        blk := { s.blk with
          cur := 0, sres := .matched, smode := .idle, budget := s.blk.arg.extractLsb' 0 32,
          irqPend := s.blk.irqPend ||| 0x01 } }) ∧
    (s.blk.phase ≠ .idle ∨ s.blk.smode ≠ .idle → exec .scnRunb s = .next (s.cmdError .busy))

/-- A Byte event of a scan advances the cursor on a match with `tgt[cur]` and else sets it to 0; the scan ends in MATCH
exactly when the cursor reaches the target's length, and otherwise nothing else changes (R128, R130). -/
def Obligations.ScanByteAdvancesOrRestarts : Prop :=
  ∀ (s : State) (x y : Byte) (q : List RxElem) (rest : List Stimulus),
    s.script = .rx :: rest → s.chan.rxq = .byte x :: q → s.blk.smode ≠ .idle → s.blk.tlen.toNat ≤ tokenMax →
    s.blk.cur.toNat < s.blk.tlen.toNat → s.blk.tgt.toList[s.blk.cur.toNat]? = some y →
    let u : State := { s with script := rest, chan := { s.chan with rxq := q } }
    (x = y → s.blk.cur + 1 ≠ s.blk.tlen →
      step s = .next { u with blk := { s.blk with cur := s.blk.cur + 1 } }) ∧
    (x = y → s.blk.cur + 1 = s.blk.tlen →
      step s = .next (State.scanEnd .matched { u with blk := { s.blk with cur := s.blk.tlen } }) ∧
      (s.blk.phase.role ≠ .sender →
        step s = .next { u with
          blk := { s.blk with
            cur := s.blk.tlen, sres := .matched, smode := .idle, irqPend := s.blk.irqPend ||| 0x01 } })) ∧
    (x ≠ y → step s = .next { u with blk := { s.blk with cur := 0 } })

/-- A Quiet or Error event charges QUANTUM against a bounded scan, ends it in TIMEOUT with budget 0 when the budget is
at most QUANTUM, and does nothing to an unbounded scan (R129, R130). -/
def Obligations.UnsuccessfulReadChargesTheBudget : Prop :=
  ∀ (s : State) (q : List RxElem) (rest : List Stimulus),
    s.script = .rx :: rest → (s.chan.rxq = .error :: q ∨ s.chan.rxq = [] ∧ q = []) →
    let u : State := { s with script := rest, chan := { s.chan with rxq := q } }
    (s.blk.smode = .unbounded → step s = .next u) ∧
    (s.blk.smode = .bounded → s.par.quantum < s.blk.budget.toNat →
      step s = .next { u with blk := { s.blk with budget := BitVec.ofNat 32 (s.blk.budget.toNat - s.par.quantum) } }) ∧
    (s.blk.smode = .bounded → s.blk.budget.toNat ≤ s.par.quantum →
      step s = .next (State.scanEnd .timedOut { u with blk := { s.blk with budget := 0 } }) ∧
      (s.blk.phase.role ≠ .sender →
        step s = .next { u with
          blk := { s.blk with
            budget := 0, sres := .timedOut, smode := .idle, irqPend := s.blk.irqPend ||| 0x01 } }))

/-- A standalone scan that meets its whole target next ends in MATCH after exactly as many reads as the target has bytes,
and reads none of what follows (R132). -/
def Obligations.ScanReadsExactlyItsTarget : Prop :=
  ∀ (s : State) (t x : List Byte),
    s.blk.phase = .idle → s.blk.smode ≠ .idle → s.blk.tlen.toNat ≤ tokenMax → s.blk.target = t → t ≠ [] →
    s.blk.cur = 0 → s.chan.rxq = arriving (t ++ x) →
    (∀ n, n < t.length → (s.rxTurns n).blk.smode = s.blk.smode ∧ (s.rxTurns n).blk.cur.toNat = n) ∧
    (∀ n, t.length ≤ n →
      s.rxTurns n = { s with
        chan := { s.chan with rxq := arriving x }
        blk := { s.blk with
          cur := s.blk.tlen, sres := .matched, smode := .idle, irqPend := s.blk.irqPend ||| 0x01 } })

/-- Garbage that does not contain the target's first byte is skipped: the scan then ends in MATCH after exactly
`len(garbage) + len(target)` reads (R133). -/
def Obligations.GarbageBeforeTheTargetIsSkipped : Prop :=
  ∀ (s : State) (g t x : List Byte) (h : Byte),
    s.blk.phase = .idle → s.blk.smode ≠ .idle → s.blk.tlen.toNat ≤ tokenMax → s.blk.target = t → t.head? = some h →
    h ∉ g → s.blk.cur = 0 → s.chan.rxq = arriving (g ++ t ++ x) →
    (∀ n, n < g.length + t.length → (s.rxTurns n).blk.smode = s.blk.smode) ∧
    (s.rxTurns (g.length + t.length)).blk.sres = .matched ∧
    (s.rxTurns (g.length + t.length)).chan.rxq = arriving x

/-- The naive restart: a token whose first bytes have just been seen is missed when it then arrives whole, and the scan
goes on with cursor 0 (R134). -/
def Obligations.NaiveRestartMissesAnOverlap : Prop :=
  ∀ (s : State) (k : TokKind) (n : DWord) (c : Nat),
    s.blk.phase = .idle → s.blk.smode ≠ .idle → s.blk.tlen.toNat ≤ tokenMax → s.blk.target = tok k n →
    s.blk.cur = 0 → 0 < c → c < (tok k n).length → s.chan.rxq = arriving ((tok k n).take c ++ tok k n) →
    s.rxTurns (c + (tok k n).length) = { s with chan := { s.chan with rxq := [] } }

/-- A bounded scan with budget B that sees no byte times out at its `max(1, ceil(B / QUANTUM))`-th unsuccessful read
and not earlier (R135). -/
def Obligations.BoundedScanTimesOutOnSchedule : Prop :=
  ∀ (s : State) (errors n : Nat),
    s.blk.phase = .idle → s.blk.smode = .bounded → s.chan.rxq = List.replicate errors .error →
    n = max 1 ((s.blk.budget.toNat + s.par.quantum - 1) / s.par.quantum) →
    (∀ m, m < n →
      (s.rxTurns m).blk = { s.blk with budget := BitVec.ofNat 32 (s.blk.budget.toNat - m * s.par.quantum) }) ∧
    (s.rxTurns n).blk = { s.blk with
      budget := 0, sres := .timedOut, smode := .idle, irqPend := s.blk.irqPend ||| 0x01 }

/-! ## The sender role -/

/-- ARB.SEND loads LEN from ARG, clears the transfer, and starts the unbounded scan for `RDY(256)`; it raises BUSY while a
role or a scan runs (R160). -/
def Obligations.ArbSendStartsTheSender : Prop :=
  ∀ s : State,
    (s.blk.phase = .idle → s.blk.smode = .idle → ∃ v : Vector Byte tokenMax,
      exec .arbSend s = .next { s with
        blk := { s.blk with
          len := s.blk.arg, idx := 0, off := 0, held := false, retries := 0, txerrs := 0, cause := .none,
          expcrc := 0, acc := 0xFFFF, snap := 0xFFFF, phase := .sAwaitReady, smode := .unbounded, sres := .none,
          cur := 0, tgt := v, tlen := 9 } } ∧
      v.toList = [0x52, 0x44, 0x59, 0x28, 0x32, 0x35, 0x36, 0x29, 0x0A] ++ s.blk.tgt.toList.drop 9) ∧
    (s.blk.phase ≠ .idle ∨ s.blk.smode ≠ .idle → exec .arbSend s = .next (s.cmdError .busy)) ∧
    decode 0x00000030 = .ok .arbSend

/-- The sender's reaction when a scan ends in MATCH, phase by phase (R162, R164, R165): the size field is sent or the role
aborts, the waits follow each other with their targets and budgets, and each chunk and the image checksum follow. -/
def Obligations.SenderReactsToMatch : Prop :=
  ∀ s : State,
    (s.blk.phase = .sAwaitReady → s.chan.draw = .ok → ∃ v : Vector Byte tokenMax,
      s.scanEnd .matched = { s with
        chan := s.chan.send (be8 s.blk.len)
        blk := { s.blk with
          phase := .sAwaitSizeAck, expcrc := checksum (be8 s.blk.len), smode := .bounded, sres := .none, cur := 0,
          budget := s.blk.tmoSizeAck, irqPend := s.blk.irqPend ||| 0x01, tgt := v, tlen := 7 } } ∧
      v.toList = tok .ack 0 ++ s.blk.tgt.toList.drop 7) ∧
    (∀ k, s.blk.phase = .sAwaitReady → s.chan.draw = .err k →
      s.scanEnd .matched = { s with
        chan := s.chan.send (be8 s.blk.len)
        blk := { s.blk with
          phase := .sAborted, cause := .txError, txerrs := satInc32 s.blk.txerrs, smode := .idle, sres := .matched,
          irqPend := s.blk.irqPend ||| 0x21 } }) ∧
    (s.blk.phase = .sAwaitSizeAck →
      let t := tok .ok (crcNumber s.blk.expcrc)
      ∃ v : Vector Byte tokenMax,
        s.scanEnd .matched = { s with
          blk := { s.blk with
            phase := .sAwaitSizeOk, smode := .bounded, sres := .none, cur := 0, budget := s.blk.tmoSizeOk,
            irqPend := s.blk.irqPend ||| 0x01, tgt := v, tlen := BitVec.ofNat 5 t.length } } ∧
        v.toList = t ++ s.blk.tgt.toList.drop t.length) ∧
    (s.blk.phase = .sAwaitSizeOk → s.blk.len ≠ 0 →
      s.scanEnd .matched = { s with
        blk := { s.blk with
          phase := .sSendChunk, idx := 0, off := 0, acc := 0xFFFF, snap := 0xFFFF, smode := .idle, sres := .matched,
          irqPend := s.blk.irqPend ||| 0x03 } }) ∧
    (s.blk.phase = .sAwaitSizeOk → s.blk.len = 0 → ∃ v : Vector Byte tokenMax,
      s.scanEnd .matched = { s with
        blk := { s.blk with
          phase := .sAwaitImageOk, idx := 0, acc := 0xFFFF, snap := 0xFFFF, expcrc := 0, smode := .bounded,
          sres := .none, cur := 0, budget := s.blk.tmoImageOk, irqPend := s.blk.irqPend ||| 0x01, tgt := v,
          tlen := 6 } } ∧
      v.toList = tok .ok 0 ++ s.blk.tgt.toList.drop 6) ∧
    (s.blk.phase = .sAwaitChunkAck → s.blk.idx + 1 < nchunks s.blk.len →
      s.scanEnd .matched = { s with
        blk := { s.blk with
          phase := .sSendChunk, idx := s.blk.idx + 1, off := chunkStart (s.blk.idx + 1), snap := s.blk.acc,
          smode := .idle, sres := .matched, irqPend := s.blk.irqPend ||| 0x03 } }) ∧
    (s.blk.phase = .sAwaitChunkAck → ¬ s.blk.idx + 1 < nchunks s.blk.len →
      let t := tok .ok (crcNumber (crcFinal s.blk.acc))
      ∃ v : Vector Byte tokenMax,
        s.scanEnd .matched = { s with
          blk := { s.blk with
            phase := .sAwaitImageOk, snap := s.blk.acc, expcrc := crcFinal s.blk.acc, smode := .bounded,
            sres := .none, cur := 0, budget := s.blk.tmoImageOk, irqPend := s.blk.irqPend ||| 0x01, tgt := v,
            tlen := BitVec.ofNat 5 t.length } } ∧
        v.toList = t ++ s.blk.tgt.toList.drop t.length) ∧
    (s.blk.phase = .sAwaitImageOk →
      s.scanEnd .matched = { s with
        blk := { s.blk with
          phase := .sDone, smode := .idle, sres := .matched, irqPend := s.blk.irqPend ||| 0x11 } })

/-- The sender's reaction when a scan ends in TIMEOUT (R164, R166): the size-ack, size-ok and image-ok waits abort with
their causes, and the chunk wait retransmits the same chunk from SNAP, counting in RETRIES up to 0xFFFFFFFF (R9, R47, R170). -/
def Obligations.SenderReactsToTimeout : Prop :=
  ∀ s : State,
    (∀ p c, (p, c) ∈ [(Phase.sAwaitSizeAck, Cause.sizeAckTimeout), (.sAwaitSizeOk, .sizeOkTimeout),
        (.sAwaitImageOk, .imageOkTimeout)] → s.blk.phase = p →
      s.scanEnd .timedOut = { s with
        blk := { s.blk with
          phase := .sAborted, cause := c, smode := .idle, sres := .timedOut,
          irqPend := s.blk.irqPend ||| 0x21 } }) ∧
    (s.blk.phase = .sAwaitChunkAck →
      s.scanEnd .timedOut = { s with
        blk := { s.blk with
          phase := .sSendChunk, acc := s.blk.snap, off := chunkStart s.blk.idx, retries := satInc32 s.blk.retries,
          smode := .idle, sres := .timedOut, irqPend := s.blk.irqPend ||| 0x03 } }) ∧
    (satInc32 s.blk.retries).toNat = min (s.blk.retries.toNat + 1) 0xFFFFFFFF

/-- TX.BYTE (R172): a raw byte in IDLE; in S_SEND_CHUNK a payload byte that advances ACC and OFF and, as the last of its
chunk, starts the bounded wait for `ACK(IDX)`; an abort where that transaction fails; WRONG_PHASE elsewhere. -/
def Obligations.TxByteSendsOneByte : Prop :=
  ∀ (x : Byte) (s : State),
    (s.blk.phase = .idle →
      exec (.txByte x) s = .next { s with
        chan := s.chan.send [x], blk := { s.blk with txerrs := errCount s.chan.draw s.blk.txerrs } }) ∧
    (s.blk.phase = .sSendChunk → s.chan.draw = .ok → s.blk.off + 1 ≠ chunkEnd s.blk.len s.blk.idx →
      exec (.txByte x) s = .next { s with
        chan := s.chan.send [x], blk := { s.blk with acc := crcUpd s.blk.acc x, off := s.blk.off + 1 } }) ∧
    (s.blk.phase = .sSendChunk → s.chan.draw = .ok → s.blk.off + 1 = chunkEnd s.blk.len s.blk.idx →
      ∃ v : Vector Byte tokenMax,
        exec (.txByte x) s = .next { s with
          chan := s.chan.send [x]
          blk := { s.blk with
            acc := crcUpd s.blk.acc x, off := s.blk.off + 1, phase := .sAwaitChunkAck, smode := .bounded,
            sres := .none, cur := 0, budget := s.blk.tmoChunk, tgt := v,
            tlen := BitVec.ofNat 5 (tok .ack s.blk.idx).length } } ∧
        v.toList = tok .ack s.blk.idx ++ s.blk.tgt.toList.drop (tok .ack s.blk.idx).length) ∧
    (∀ k, s.blk.phase = .sSendChunk → s.chan.draw = .err k →
      exec (.txByte x) s = .next { s with
        chan := s.chan.send [x]
        blk := { s.blk with
          phase := .sAborted, cause := .txError, txerrs := satInc32 s.blk.txerrs,
          irqPend := s.blk.irqPend ||| 0x20 } }) ∧
    (s.blk.phase ≠ .idle → s.blk.phase ≠ .sSendChunk → exec (.txByte x) s = .next (s.cmdError .wrongPhase))

/-- The chunks of R163 cover `[0, L)` in order without gaps or overlap, each of 1 to 256 bytes, for every length. -/
def Obligations.ChunksCoverTheImage : Prop :=
  ∀ l : DWord,
    (nchunks l).toNat = (l.toNat + 255) / 256 ∧
    (∀ i : DWord, i < nchunks l →
      (chunkStart i).toNat = 256 * i.toNat ∧ 1 ≤ (chunkLen l i).toNat ∧ (chunkLen l i).toNat ≤ 256 ∧
      (chunkEnd l i).toNat = (chunkStart i).toNat + (chunkLen l i).toNat ∧
      (i + 1 < nchunks l → chunkEnd l i = chunkStart (i + 1)) ∧
      (¬ i + 1 < nchunks l → chunkEnd l i = l))

/-- From a sound state, every step but reset moves the phase along the order of R24 and R175; only ARB.CLEAR leaves an
ended transfer; and IDX leaves the chunk in hand only by the match of its ACK (R170). -/
def Obligations.PhasesFollowTheProtocol : Prop :=
  ∀ s t : State, s.blk.Inv → step s = .next t → s.script.head? ≠ some .reset →
    (t.blk.phase = s.blk.phase ∨ t.blk.phase ∈ s.blk.phase.follows) ∧
    (s.blk.phase.terminal = true → s.blk.phase ≠ .idle → t.blk.phase ≠ s.blk.phase →
      s.script.head? = some (pushInstr .arbClear)) ∧
    (s.blk.phase = .sSendChunk ∨ s.blk.phase = .sAwaitChunkAck →
      t.blk.idx = s.blk.idx ∨
      (s.blk.phase = .sAwaitChunkAck ∧ t.blk.phase = .sSendChunk ∧ t.blk.sres = .matched ∧
        t.blk.idx = s.blk.idx + 1))

/-- Under the controller's duties, every step keeps SNAP and ACC the CRC registers over the image's committed and sent
bytes, so that `EXPCRC = checksum(Image)` in S_AWAIT_IMAGE_OK and S_DONE, whatever was retransmitted (R173, R284). -/
def Obligations.SenderChecksumIsOfTheImage : Prop :=
  ∀ (image : List Byte) (s t : State), s.blk.Inv → SenderSum image s.blk → SenderDuty image s → step s = .next t →
    SenderSum image t.blk

/-! ## The receiver role -/

/-- ARB.RECV clears the transfer, sends `RDY(256)` once and waits for the size field, whatever becomes of the emission;
it raises BUSY while a role or a scan runs (R200). -/
def Obligations.ArbRecvRequestsTheImage : Prop :=
  ∀ s : State,
    (s.blk.phase = .idle → s.blk.smode = .idle →
      exec .arbRecv s = .next { s with
        chan := s.chan.send [0x52, 0x44, 0x59, 0x28, 0x32, 0x35, 0x36, 0x29, 0x0A]
        blk := { s.blk with
          len := 0, idx := 0, off := 0, held := false, retries := 0, txerrs := errCount s.chan.draw 0, cause := .none,
          expcrc := 0, acc := 0xFFFF, snap := 0xFFFF, phase := .rReceiveSize } }) ∧
    (s.blk.phase ≠ .idle ∨ s.blk.smode ≠ .idle → exec .arbRecv s = .next (s.cmdError .busy))

/-- One RX event in R_RECEIVE_SIZE (R203), and ConfirmSize after the eighth byte (R205): ACK(0), OK of the checksum, then
the wait for the controller's buffer. -/
def Obligations.SizeFieldIsReceivedAndConfirmed : Prop :=
  ∀ (s : State) (rest : List Stimulus), s.script = .rx :: rest → s.blk.phase = .rReceiveSize → s.blk.smode = .idle →
    (∀ (x : Byte) (q : List RxElem), s.chan.rxq = .byte x :: q → s.blk.off + 1 ≠ 8 →
      step s = .next { s with
        script := rest, chan := { s.chan with rxq := q }
        blk := { s.blk with
          len := (s.blk.len <<< 8) ||| x.setWidth 64, acc := crcUpd s.blk.acc x, off := s.blk.off + 1 } }) ∧
    (∀ (x : Byte) (q : List RxElem), s.chan.rxq = .byte x :: q → s.blk.off + 1 = 8 →
      let sum := crcFinal (crcUpd s.blk.acc x)
      let acked := Chan.send (tok .ack 0) { s.chan with rxq := q }
      step s = .next { s with
        script := rest, chan := acked.send (tok .ok (crcNumber sum))
        blk := { s.blk with
          len := (s.blk.len <<< 8) ||| x.setWidth 64, expcrc := sum, phase := .rAllocWait, idx := 0, off := 0,
          acc := 0xFFFF, snap := 0xFFFF, txerrs := errCount acked.draw (errCount s.chan.draw s.blk.txerrs),
          irqPend := s.blk.irqPend ||| 0x04 } }) ∧
    (∀ q : List RxElem, s.chan.rxq = .error :: q →
      step s = .next { s with
        script := rest, chan := { s.chan with rxq := q }
        blk := { s.blk with len := 0, acc := s.blk.snap, off := 0, irqPend := s.blk.irqPend ||| 0x80 } }) ∧
    (s.chan.rxq = [] → step s = .next { s with script := rest })

/-- Eight size bytes in a row leave LEN their big-endian value and EXPCRC their checksum (R68, R204, R205). -/
def Obligations.SizeFieldDecodesBigEndian : Prop :=
  ∀ (s : State) (bytes : List Byte) (q : List RxElem),
    s.blk.phase = .rReceiveSize → s.blk.smode = .idle → s.blk.off = 0 → s.blk.acc = 0xFFFF → bytes.length = 8 →
    s.chan.rxq = arriving bytes ++ q →
    (s.rxTurns 8).blk.phase = .rAllocWait ∧ be8 (s.rxTurns 8).blk.len = bytes ∧
    (s.rxTurns 8).blk.expcrc = checksum bytes ∧ (s.rxTurns 8).chan.rxq = q

/-- ARB.ALLOC opens the image phase, or confirms an empty image at once with `OK` of ACC's checksum; WRONG_PHASE outside
R_ALLOC_WAIT (R207, R214). -/
def Obligations.ArbAllocOpensTheImage : Prop :=
  ∀ s : State,
    (s.blk.phase = .rAllocWait → s.blk.len ≠ 0 →
      exec .arbAlloc s = .next { s with blk := { s.blk with phase := .rReceiveImage } }) ∧
    (s.blk.phase = .rAllocWait → s.blk.len = 0 →
      exec .arbAlloc s = .next { s with
        chan := s.chan.send (tok .ok (crcNumber (crcFinal s.blk.acc)))
        blk := { s.blk with
          phase := .rHandoff, expcrc := crcFinal s.blk.acc, txerrs := errCount s.chan.draw s.blk.txerrs,
          irqPend := s.blk.irqPend ||| 0x10 } }) ∧
    (s.blk.phase ≠ .rAllocWait → exec .arbAlloc s = .next (s.cmdError .wrongPhase))

/-- ARB.NOALLOC ends the role in R_HALTED with cause ALLOC_FAILURE and tells the peer nothing; WRONG_PHASE outside
R_ALLOC_WAIT (R208). -/
def Obligations.ArbNoallocHaltsTheReceiver : Prop :=
  (∀ s : State, s.blk.phase = .rAllocWait →
    exec .arbNoalloc s = .next { s with
      blk := { s.blk with phase := .rHalted, cause := .allocFailure, irqPend := s.blk.irqPend ||| 0x20 } }) ∧
  (∀ s : State, s.blk.phase ≠ .rAllocWait → exec .arbNoalloc s = .next (s.cmdError .wrongPhase)) ∧
  (∀ s t : State, s.blk.phase = .rAllocWait → s.blk.smode = .idle → s.blk.sres = .none → s.blk.held = false →
    s.blk.errcode = .none → exec .arbNoalloc s = .next t → t.blk.regRead 0x0C = 0x000000B9) ∧
  decode 0x00000033 = .ok .arbNoalloc

/-- One RX event in R_RECEIVE_IMAGE with HELD = 0 (R211): a byte is held for the controller, a read failure restarts the
chunk, a Quiet changes nothing; with HELD = 1 no event is read. -/
def Obligations.ImageByteIsHeldForTheController : Prop :=
  ∀ (s : State) (rest : List Stimulus), s.script = .rx :: rest → s.blk.phase = .rReceiveImage → s.blk.smode = .idle →
    (∀ (x : Byte) (q : List RxElem), s.blk.held = false → s.chan.rxq = .byte x :: q →
      step s = .next { s with
        script := rest, chan := { s.chan with rxq := q }
        blk := { s.blk with
          rxdata := x, held := true, acc := crcUpd s.blk.acc x, irqPend := s.blk.irqPend ||| 0x08 } }) ∧
    (∀ q : List RxElem, s.blk.held = false → s.chan.rxq = .error :: q →
      step s = .next { s with
        script := rest, chan := { s.chan with rxq := q }
        blk := { s.blk with
          acc := s.blk.snap, off := chunkStart s.blk.idx, irqPend := s.blk.irqPend ||| 0x80 } }) ∧
    (s.blk.held = false → s.chan.rxq = [] → step s = .next { s with script := rest }) ∧
    (s.blk.held = true → step s = .next { s with script := rest })

/-- RX.TAKE releases the held byte; at the end of a chunk it sends its ACK and commits ACC, and after the last chunk it
sends `OK` of the image checksum and hands off (R212, R214). -/
def Obligations.RxTakeReleasesTheByte : Prop :=
  ∀ s : State,
    (s.blk.phase = .rReceiveImage → s.blk.held = true → s.blk.off + 1 ≠ chunkEnd s.blk.len s.blk.idx →
      exec .rxTake s = .next { s with blk := { s.blk with held := false, off := s.blk.off + 1 } }) ∧
    (s.blk.phase = .rReceiveImage → s.blk.held = true → s.blk.off + 1 = chunkEnd s.blk.len s.blk.idx →
      s.blk.off + 1 ≠ s.blk.len →
      exec .rxTake s = .next { s with
        chan := s.chan.send (tok .ack s.blk.idx)
        blk := { s.blk with
          held := false, off := s.blk.off + 1, snap := s.blk.acc, idx := s.blk.idx + 1,
          txerrs := errCount s.chan.draw s.blk.txerrs } }) ∧
    (s.blk.phase = .rReceiveImage → s.blk.held = true → s.blk.off + 1 = chunkEnd s.blk.len s.blk.idx →
      s.blk.off + 1 = s.blk.len →
      let acked := s.chan.send (tok .ack s.blk.idx)
      exec .rxTake s = .next { s with
        chan := acked.send (tok .ok (crcNumber (crcFinal s.blk.acc)))
        blk := { s.blk with
          held := false, off := s.blk.off + 1, snap := s.blk.acc, expcrc := crcFinal s.blk.acc, phase := .rHandoff,
          txerrs := errCount acked.draw (errCount s.chan.draw s.blk.txerrs),
          irqPend := s.blk.irqPend ||| 0x10 } }) ∧
    (s.blk.phase = .rReceiveImage → s.blk.held = false → exec .rxTake s = .next (s.cmdError .nothingHeld)) ∧
    (s.blk.phase ≠ .rReceiveImage → exec .rxTake s = .next (s.cmdError .wrongPhase)) ∧
    decode 0x00000034 = .ok .rxTake

/-- Under the controller's duty to store each byte at OFF before RX.TAKE, every step keeps the receiver's accumulators
those of the bytes kept: the size `OK` is of the eight bytes of LEN, and at R_HANDOFF `EXPCRC` is the checksum of the
whole buffer, whatever was restarted (R204, R205, R218). -/
def Obligations.ReceiverChecksumIsOfTheBuffer : Prop :=
  (∀ (buf : Nat → Byte) (s t : State), s.blk.Inv → ReceiverSum buf s.blk → ReceiverDuty buf s → step s = .next t →
    ReceiverSum buf t.blk) ∧
  (∀ (buf : Nat → Byte) (b : Block), b.Inv → b.held = true → ReceiverSum buf b →
    ReceiverSum (Function.update buf b.off.toNat b.rxdata) b)

/-- A failed emission never changes the receiver's progress: two receivers that differ only in the channel's draws, the
bytes sent, TXERRS and the values read differ after every step, except reset, in nothing more (R216, R217). -/
def Obligations.ReceiverProgressIgnoresTxFailures : Prop :=
  ∀ s₁ s₂ t₁ t₂ : State,
    s₁.par = s₂.par → s₁.script = s₂.script → s₁.chan.rxq = s₂.chan.rxq →
    { s₁.blk with txerrs := 0 } = { s₂.blk with txerrs := 0 } →
    (s₁.blk.phase.role = .receiver ∨ s₁.script.head? = some (pushInstr .arbRecv)) →
    s₁.script.head? ≠ some .reset → step s₁ = .next t₁ → step s₂ = .next t₂ →
    t₁.script = t₂.script ∧ t₁.chan.rxq = t₂.chan.rxq ∧
    { t₁.blk with txerrs := 0 } = { t₂.blk with txerrs := 0 }

/-! ## Control commands, interrupts and registers -/

/-- ARB.CLEAR returns a terminal phase, IDLE among them, to IDLE and clears the transfer registers, and keeps ARG,
CRC_REG, the scanner, the TMO registers, IRQ_EN, IRQ_PEND and ERRCODE; WRONG_PHASE in every other phase (R230). -/
def Obligations.ArbClearReturnsToIdle : Prop :=
  ∀ s : State,
    (s.blk.phase ∈ [Phase.idle, .sDone, .sAborted, .rHandoff, .rHalted] →
      exec .arbClear s = .next { s with
        blk := { s.blk with
          phase := .idle, cause := .none, len := 0, idx := 0, off := 0, held := false, rxdata := 0, expcrc := 0,
          retries := 0, txerrs := 0, acc := 0xFFFF, snap := 0xFFFF } }) ∧
    (s.blk.phase ∉ [Phase.idle, .sDone, .sAborted, .rHandoff, .rHalted] →
      exec .arbClear s = .next (s.cmdError .wrongPhase)) ∧
    decode 0x00000035 = .ok .arbClear

/-- A pending interrupt bit stays pending through every step but reset and a write of IRQ_PEND with that bit 1 (R246,
R247). -/
def Obligations.PendingBitsClearOnlyByWrite : Prop :=
  ∀ (s t : State) (q : Irq), step s = .next t → s.blk.pending q = true →
    t.blk.pending q = true ∨ s.script.head? = some .reset ∨
    ∃ v : Word, s.script.head? = some (.writeOf .irqPend v) ∧ v.getLsbD q.bit = true

/-- A write of IRQ_PEND clears exactly the bits written as 1 and a write of IRQ_EN stores its low byte (R247), and the
interrupt line is high exactly when some bit is both pending and enabled (R248). No command clears a pending bit. -/
def Obligations.InterruptRegistersAndLine : Prop :=
  (∀ (s : State) (v : Word) (rest : List Stimulus), s.script = .writeOf .irqPend v :: rest → ∃ t,
    step s = .next t ∧ t = { s with script := rest, blk := { s.blk with irqPend := t.blk.irqPend } } ∧
    ∀ q : Irq, t.blk.pending q = (s.blk.pending q && !v.getLsbD q.bit)) ∧
  (∀ (s : State) (v : Word) (rest : List Stimulus), s.script = .writeOf .irqEn v :: rest →
    step s = .next { s with script := rest, blk := { s.blk with irqEn := v.setWidth 8 } }) ∧
  (∀ (i : Instr) (s t : State) (q : Irq), exec i s = .next t → s.blk.pending q = true → t.blk.pending q = true) ∧
  (∀ b : Block, b.irqLine = true ↔ ∃ q : Irq, b.pending q = true ∧ b.irqEn.getLsbD q.bit = true)

/-- STATUS carries each field at its bits, with the codes of R23, R27, R32, R34 and R240, and 0 in bits [15:13] and [31:19]
(R54); SCAN carries the cursor and the length (R55). -/
def Obligations.StatusAndScanFields : Prop :=
  ∀ b : Block,
    (b.phase, (b.regRead 0x0C).extractLsb' 0 5) ∈ phaseCodes ∧ (b.cause, (b.regRead 0x0C).extractLsb' 5 3) ∈ causeCodes ∧
    (b.smode, (b.regRead 0x0C).extractLsb' 8 2) ∈ modeCodes ∧ (b.sres, (b.regRead 0x0C).extractLsb' 10 2) ∈ resultCodes ∧
    (b.regRead 0x0C).getLsbD 12 = b.held ∧ (b.regRead 0x0C).extractLsb' 13 3 = 0 ∧
    (b.errcode, (b.regRead 0x0C).extractLsb' 16 3) ∈ errorCodes ∧ (b.regRead 0x0C).extractLsb' 19 13 = 0 ∧
    (b.regRead 0x24).extractLsb' 0 5 = b.cur ∧ (b.regRead 0x24).extractLsb' 5 3 = 0 ∧
    (b.regRead 0x24).extractLsb' 8 5 = b.tlen ∧ (b.regRead 0x24).extractLsb' 13 19 = 0

/-- The rest of the register map's reads (R52, R53): ID, the widened registers, the two halves of each 64-bit register,
and 0 at CMD and at the reserved offsets. -/
def Obligations.RegisterMapReads : Prop :=
  ∀ b : Block,
    b.regRead 0x00 = 0x54524231 ∧ b.regRead 0x04 = b.irqEn.setWidth 32 ∧ b.regRead 0x08 = b.irqPend.setWidth 32 ∧
    b.regRead 0x10 = 0 ∧ b.regRead 0x18 ++ b.regRead 0x14 = b.arg ∧ b.regRead 0x1C = b.crcReg.setWidth 32 ∧
    b.regRead 0x20 = (b.crcReg ^^^ 0xFFFF).setWidth 32 ∧ b.regRead 0x28 = b.budget ∧
    b.regRead 0x2C = b.rxdata.setWidth 32 ∧ b.regRead 0x34 ++ b.regRead 0x30 = b.off ∧
    b.regRead 0x3C ++ b.regRead 0x38 = b.len ∧ b.regRead 0x44 ++ b.regRead 0x40 = b.idx ∧
    b.regRead 0x48 = b.expcrc.setWidth 32 ∧ b.regRead 0x4C = b.retries ∧ b.regRead 0x50 = b.txerrs ∧
    b.regRead 0x54 = b.tmoSizeAck ∧ b.regRead 0x58 = b.tmoSizeOk ∧ b.regRead 0x5C = b.tmoChunk ∧
    b.regRead 0x60 = b.tmoImageOk ∧ ∀ off, 0x64 ≤ off → off ≤ 0xFC → off % 4 = 0 → b.regRead off = 0

/-- A register read returns the register's value to the controller and changes no state of the block or the channel; so
two reads in a row return the same (R67, R292). The list of read values is the model's own (log 12). -/
def Obligations.ReadsChangeNoBlockState : Prop :=
  ∀ (s : State) (off : Nat) (rest : List Stimulus), s.script = .access ⟨4, off, .read⟩ :: rest → off % 4 = 0 →
    off < 0x100 →
    step s = .next { s with script := rest, reads := s.reads ++ [s.blk.regRead off] }

/-- A write changes only its own register: RW registers store, a read-only or reserved offset ignores it (R52, R67). -/
def Obligations.WritesChangeOnlyTheirRegister : Prop :=
  ∀ (s : State) (off : Nat) (v : Word) (rest : List Stimulus), s.script = .access ⟨4, off, .write v⟩ :: rest →
    off % 4 = 0 → off < 0x100 → off ≠ 0x10 → ∃ b : Block,
    step s = .next { s with script := rest, blk := b } ∧
    (off = 0x14 → b = { s.blk with arg := b.arg } ∧ b.regRead 0x14 = v ∧ b.regRead 0x18 = s.blk.regRead 0x18) ∧
    (off = 0x18 → b = { s.blk with arg := b.arg } ∧ b.regRead 0x18 = v ∧ b.regRead 0x14 = s.blk.regRead 0x14) ∧
    (off = 0x54 → b = { s.blk with tmoSizeAck := v }) ∧ (off = 0x58 → b = { s.blk with tmoSizeOk := v }) ∧
    (off = 0x5C → b = { s.blk with tmoChunk := v }) ∧ (off = 0x60 → b = { s.blk with tmoImageOk := v }) ∧
    (off = 0x04 → b = { s.blk with irqEn := v.setWidth 8 }) ∧
    (off = 0x08 → b = { s.blk with irqPend := s.blk.irqPend &&& ~~~(v.setWidth 8) }) ∧
    (off ∉ [0x04, 0x08, 0x14, 0x18, 0x54, 0x58, 0x5C, 0x60] → b = s.blk)

/-- An access that is not an aligned 32-bit access is refused (R65). -/
def Obligations.UndefinedAccessIsRefused : Prop :=
  ∀ (s : State) (a : Access) (rest : List Stimulus), s.script = .access a :: rest →
    (a.width ≠ 4 ∨ a.address s.par % 4 ≠ 0 → step s = .refused .undefinedAccess) ∧
    (a.width = 4 → a.address s.par % 4 = 0 → step s ≠ .refused .undefinedAccess)

/-- The parameters never change, and ARG, IRQ_EN and the TMO registers change only by reset and by a write of that
register: no command and no RX step writes them (R22, R49, R50, R67). -/
def Obligations.ControllerRegistersChangeOnlyByWrites : Prop :=
  ∀ s t : State, step s = .next t →
    t.par = s.par ∧
    (s.script.head? = some .reset ∨
      (t.blk.arg = s.blk.arg ∨ ∃ v, s.script.head? = some (.writeOf .argLo v) ∨
        s.script.head? = some (.writeOf .argHi v)) ∧
      (t.blk.irqEn = s.blk.irqEn ∨ ∃ v, s.script.head? = some (.writeOf .irqEn v)) ∧
      (t.blk.tmoSizeAck = s.blk.tmoSizeAck ∨ ∃ v, s.script.head? = some (.writeOf .tmoSizeAck v)) ∧
      (t.blk.tmoSizeOk = s.blk.tmoSizeOk ∨ ∃ v, s.script.head? = some (.writeOf .tmoSizeOk v)) ∧
      (t.blk.tmoChunk = s.blk.tmoChunk ∨ ∃ v, s.script.head? = some (.writeOf .tmoChunk v)) ∧
      (t.blk.tmoImageOk = s.blk.tmoImageOk ∨ ∃ v, s.script.head? = some (.writeOf .tmoImageOk v)))

/-! ## Reset, the channel and the agents -/

/-- Reset writes every element of block state with a specified value, whatever the state was (R270), and after it STATUS,
SCAN and CRC_OUT read 0 and the interrupt line is low. State.reset is such a state. The bytes of tgt are free (log 5). -/
def Obligations.ResetWritesEveryElement : Prop :=
  (∀ (s : State) (rest : List Stimulus), s.script = .reset :: rest → ∃ t v,
    step s = .next t ∧
    t.blk = { arg := 0, phase := .idle, cause := .none, crcReg := 0xFFFF, tgt := v, tlen := 0, cur := 0, smode := .idle,
              budget := 0, sres := .none, len := 0, idx := 0, off := 0, held := false, rxdata := 0, acc := 0xFFFF,
              snap := 0xFFFF, expcrc := 0, retries := 0, txerrs := 0, tmoSizeAck := s.par.tmoSizeAckReset,
              tmoSizeOk := s.par.tmoSizeOkReset, tmoChunk := s.par.tmoChunkReset,
              tmoImageOk := s.par.tmoImageOkReset, irqEn := 0, irqPend := 0, errcode := .none } ∧
    t.blk.regRead 0x0C = 0 ∧ t.blk.regRead 0x24 = 0 ∧ t.blk.regRead 0x1C = 0xFFFF ∧ t.blk.regRead 0x20 = 0 ∧
    t.blk.irqLine = false) ∧
  (∃ n, State.reset.blk = Block.reset State.reset.par n)

/-- Reset does not touch the channel: queued RX elements stay and sent TX bytes are not recalled (R271). After a reset the
block reads no RX event until a command is written (R272): a turn of the RX port in IDLE with no scan changes nothing (R63,
and log 16, the model's inference). -/
def Obligations.ResetLeavesTheChannel : Prop :=
  (∀ (s : State) (rest : List Stimulus), s.script = .reset :: rest → ∃ t,
    step s = .next t ∧ t.chan.rxq = s.chan.rxq ∧ t.chan.tx = s.chan.tx ∧ t.chan.draws = s.chan.draws ∧
    t.script = rest ∧ t.par = s.par ∧ t.reads = s.reads ∧ t.blk.reading = false) ∧
  (∀ (s : State) (rest : List Stimulus), s.script = .rx :: rest → s.blk.phase = .idle → s.blk.smode = .idle →
    step s = .next { s with script := rest })

/-- The RX queue loses exactly its head, and only in an RX step of a reading block, gains only what the channel appends,
and no command, access or reset touches it; the block reads exactly in the three cases of R63, of which a sound state has
at most one (R61, R63). -/
def Obligations.RxStepConsumesOneEvent : Prop :=
  (∀ b : Block, b.reading = true ↔
    b.smode ≠ .idle ∨ b.phase = .rReceiveSize ∨ (b.phase = .rReceiveImage ∧ b.held = false)) ∧
  (∀ b : Block, b.Inv → b.smode ≠ .idle → b.phase ≠ .rReceiveSize ∧ b.phase ≠ .rReceiveImage) ∧
  (∀ s t : State, step s = .next t →
    (s.script.head? = some .rx ∧
      t.chan.rxq = if s.blk.reading then s.chan.rxq.tail else s.chan.rxq) ∨
    (∃ e, s.script.head? = some (.append e) ∧ t.chan.rxq = s.chan.rxq ++ [e]) ∨
    (s.script.head? ≠ some .rx ∧ (∀ e, s.script.head? ≠ some (.append e)) ∧ t.chan.rxq = s.chan.rxq)) ∧
  (∀ (s : State) (rest : List Stimulus), s.script = .rx :: rest → s.blk.reading = false →
    step s = .next { s with script := rest })

/-- The TX stream only grows, by any step. One transaction of `bs` answers OK and appends all of `bs`, or answers ERR and
appends a prefix, and every such outcome is some draw: a listed `ok`, or a listed `err k` (R62). For a `k` beyond the string,
the whole string is sent, the outcome ERR(|s|) (log 2). -/
def Obligations.TxStreamOnlyGrows : Prop :=
  (∀ s t : State, step s = .next t → ∃ sent, t.chan.tx = s.chan.tx ++ sent) ∧
  (∀ (s : State) (bs : List Byte),
    (s.txResult = .ok ∧ (s.emit bs).chan.tx = s.chan.tx ++ bs) ∨
    (s.txResult = .err ∧ ∃ k, k ≤ bs.length ∧ (s.emit bs).chan.tx = s.chan.tx ++ bs.take k)) ∧
  (∀ (s : State) (bs : List Byte) (ds : List TxDraw), s.chan.draws = .ok :: ds →
    s.txResult = .ok ∧ (s.emit bs).chan.tx = s.chan.tx ++ bs ∧ (s.emit bs).chan.draws = ds) ∧
  (∀ (s : State) (bs : List Byte) (k : Nat) (ds : List TxDraw), s.chan.draws = .err k :: ds →
    s.txResult = .err ∧ (s.emit bs).chan.tx = s.chan.tx ++ bs.take k ∧ (s.emit bs).chan.draws = ds ∧
      (bs.length ≤ k → (s.emit bs).chan.tx = s.chan.tx ++ bs))

/-- Every step keeps the block's invariant (R23, R25, R27, R30, R31, R34, R42, R43, R128, R161, R201): the scanner's
bounds, the target and mode of each wait, IDX and OFF in their chunk, HELD, and the cause of each phase. -/
def Obligations.EveryStepKeepsTheInvariant : Prop :=
  ∀ s t : State, s.blk.Inv → step s = .next t → t.blk.Inv

/-- The invariant holds after power-on, and after the reset of any state (R270). -/
def Obligations.ResetMeetsTheInvariant : Prop :=
  State.reset.blk.Inv ∧ ∀ (p : Params) (n : Nat), (Block.reset p n).Inv

/-- Two instances share no state: an end's move is a step of that end and changes nothing else of the system, the
delivery counters included. A carry takes exactly the next byte of its direction, unchanged and once, to the end of the
other's RX queue. The ideal channel inserts nothing, and `CHANNEL = any` may insert any element. No move changes the parameter
`CHANNEL` or delivers more than was sent (R2, R77, R256; log 13). -/
def Obligations.InstancesMeetOnlyInTheChannel : Prop :=
  (∀ (l m : Link) (x : EndMove), l.move (.host x) = .next m →
    m = { l with host := m.host } ∧ step { l.host with script := x.stimulus :: l.host.script } = .next m.host) ∧
  (∀ (l m : Link) (x : EndMove), l.move (.firmware x) = .next m →
    m = { l with firmware := m.firmware } ∧
      step { l.firmware with script := x.stimulus :: l.firmware.script } = .next m.firmware) ∧
  (∀ (l : Link) (x : Byte), l.host.chan.tx[l.hostSent]? = some x →
    l.move .carryToFirmware = .next { l with
      hostSent := l.hostSent + 1
      firmware := { l.firmware with
        chan := { l.firmware.chan with rxq := l.firmware.chan.rxq ++ [.byte x] } } }) ∧
  (∀ (l : Link) (x : Byte), l.firmware.chan.tx[l.firmwareSent]? = some x →
    l.move .carryToHost = .next { l with
      firmwareSent := l.firmwareSent + 1
      host := { l.host with chan := { l.host.chan with rxq := l.host.chan.rxq ++ [.byte x] } } }) ∧
  (∀ l : Link, (l.host.chan.tx.length ≤ l.hostSent → l.move .carryToFirmware = .next l) ∧
    (l.firmware.chan.tx.length ≤ l.firmwareSent → l.move .carryToHost = .next l)) ∧
  (∀ (l : Link) (e : RxElem), l.channel = .ideal →
    l.move (.insertToFirmware e) = .next l ∧ l.move (.insertToHost e) = .next l) ∧
  (∀ (l : Link) (e : RxElem), l.channel = .any →
    l.move (.insertToFirmware e) = .next { l with
      firmware := { l.firmware with chan := { l.firmware.chan with rxq := l.firmware.chan.rxq ++ [e] } } } ∧
    l.move (.insertToHost e) = .next { l with
      host := { l.host with chan := { l.host.chan with rxq := l.host.chan.rxq ++ [e] } } }) ∧
  (∀ (l m : Link) (v : LinkMove), l.move v = .next m → m.channel = l.channel ∧
    (l.hostSent ≤ l.host.chan.tx.length → m.hostSent ≤ m.host.chan.tx.length) ∧
    (l.firmwareSent ≤ l.firmware.chan.tx.length → m.firmwareSent ≤ m.firmware.chan.tx.length))
end

