-- ==== Sys2Proof/Laws/State.lean ====
section
/-! SUPPORT. One lemma per field per update of the block, true by rfl, and the same for the updates of the whole state,
so that no later proof unfolds a record update. -/

namespace Sys2Proof.Machine

@[simp] theorem Block.irqSet_arg (q : Irq) (b : Block) : (b.irqSet q).arg = b.arg := rfl
@[simp] theorem Block.irqSet_phase (q : Irq) (b : Block) : (b.irqSet q).phase = b.phase := rfl
@[simp] theorem Block.irqSet_cause (q : Irq) (b : Block) : (b.irqSet q).cause = b.cause := rfl
@[simp] theorem Block.irqSet_crcReg (q : Irq) (b : Block) : (b.irqSet q).crcReg = b.crcReg := rfl
@[simp] theorem Block.irqSet_tgt (q : Irq) (b : Block) : (b.irqSet q).tgt = b.tgt := rfl
@[simp] theorem Block.irqSet_tlen (q : Irq) (b : Block) : (b.irqSet q).tlen = b.tlen := rfl
@[simp] theorem Block.irqSet_cur (q : Irq) (b : Block) : (b.irqSet q).cur = b.cur := rfl
@[simp] theorem Block.irqSet_smode (q : Irq) (b : Block) : (b.irqSet q).smode = b.smode := rfl
@[simp] theorem Block.irqSet_budget (q : Irq) (b : Block) : (b.irqSet q).budget = b.budget := rfl
@[simp] theorem Block.irqSet_sres (q : Irq) (b : Block) : (b.irqSet q).sres = b.sres := rfl
@[simp] theorem Block.irqSet_len (q : Irq) (b : Block) : (b.irqSet q).len = b.len := rfl
@[simp] theorem Block.irqSet_idx (q : Irq) (b : Block) : (b.irqSet q).idx = b.idx := rfl
@[simp] theorem Block.irqSet_off (q : Irq) (b : Block) : (b.irqSet q).off = b.off := rfl
@[simp] theorem Block.irqSet_held (q : Irq) (b : Block) : (b.irqSet q).held = b.held := rfl
@[simp] theorem Block.irqSet_rxdata (q : Irq) (b : Block) : (b.irqSet q).rxdata = b.rxdata := rfl
@[simp] theorem Block.irqSet_acc (q : Irq) (b : Block) : (b.irqSet q).acc = b.acc := rfl
@[simp] theorem Block.irqSet_snap (q : Irq) (b : Block) : (b.irqSet q).snap = b.snap := rfl
@[simp] theorem Block.irqSet_expcrc (q : Irq) (b : Block) : (b.irqSet q).expcrc = b.expcrc := rfl
@[simp] theorem Block.irqSet_retries (q : Irq) (b : Block) : (b.irqSet q).retries = b.retries := rfl
@[simp] theorem Block.irqSet_txerrs (q : Irq) (b : Block) : (b.irqSet q).txerrs = b.txerrs := rfl
@[simp] theorem Block.irqSet_tmoSizeAck (q : Irq) (b : Block) : (b.irqSet q).tmoSizeAck = b.tmoSizeAck := rfl
@[simp] theorem Block.irqSet_tmoSizeOk (q : Irq) (b : Block) : (b.irqSet q).tmoSizeOk = b.tmoSizeOk := rfl
@[simp] theorem Block.irqSet_tmoChunk (q : Irq) (b : Block) : (b.irqSet q).tmoChunk = b.tmoChunk := rfl
@[simp] theorem Block.irqSet_tmoImageOk (q : Irq) (b : Block) : (b.irqSet q).tmoImageOk = b.tmoImageOk := rfl
@[simp] theorem Block.irqSet_irqEn (q : Irq) (b : Block) : (b.irqSet q).irqEn = b.irqEn := rfl
@[simp] theorem Block.irqSet_irqPend (q : Irq) (b : Block) : (b.irqSet q).irqPend = b.irqPend ||| q.mask := rfl
@[simp] theorem Block.irqSet_errcode (q : Irq) (b : Block) : (b.irqSet q).errcode = b.errcode := rfl

@[simp] theorem Block.countTxErr_arg (b : Block) : (b.countTxErr).arg = b.arg := rfl
@[simp] theorem Block.countTxErr_phase (b : Block) : (b.countTxErr).phase = b.phase := rfl
@[simp] theorem Block.countTxErr_cause (b : Block) : (b.countTxErr).cause = b.cause := rfl
@[simp] theorem Block.countTxErr_crcReg (b : Block) : (b.countTxErr).crcReg = b.crcReg := rfl
@[simp] theorem Block.countTxErr_tgt (b : Block) : (b.countTxErr).tgt = b.tgt := rfl
@[simp] theorem Block.countTxErr_tlen (b : Block) : (b.countTxErr).tlen = b.tlen := rfl
@[simp] theorem Block.countTxErr_cur (b : Block) : (b.countTxErr).cur = b.cur := rfl
@[simp] theorem Block.countTxErr_smode (b : Block) : (b.countTxErr).smode = b.smode := rfl
@[simp] theorem Block.countTxErr_budget (b : Block) : (b.countTxErr).budget = b.budget := rfl
@[simp] theorem Block.countTxErr_sres (b : Block) : (b.countTxErr).sres = b.sres := rfl
@[simp] theorem Block.countTxErr_len (b : Block) : (b.countTxErr).len = b.len := rfl
@[simp] theorem Block.countTxErr_idx (b : Block) : (b.countTxErr).idx = b.idx := rfl
@[simp] theorem Block.countTxErr_off (b : Block) : (b.countTxErr).off = b.off := rfl
@[simp] theorem Block.countTxErr_held (b : Block) : (b.countTxErr).held = b.held := rfl
@[simp] theorem Block.countTxErr_rxdata (b : Block) : (b.countTxErr).rxdata = b.rxdata := rfl
@[simp] theorem Block.countTxErr_acc (b : Block) : (b.countTxErr).acc = b.acc := rfl
@[simp] theorem Block.countTxErr_snap (b : Block) : (b.countTxErr).snap = b.snap := rfl
@[simp] theorem Block.countTxErr_expcrc (b : Block) : (b.countTxErr).expcrc = b.expcrc := rfl
@[simp] theorem Block.countTxErr_retries (b : Block) : (b.countTxErr).retries = b.retries := rfl
@[simp] theorem Block.countTxErr_txerrs (b : Block) : (b.countTxErr).txerrs = satInc32 b.txerrs := rfl
@[simp] theorem Block.countTxErr_tmoSizeAck (b : Block) : (b.countTxErr).tmoSizeAck = b.tmoSizeAck := rfl
@[simp] theorem Block.countTxErr_tmoSizeOk (b : Block) : (b.countTxErr).tmoSizeOk = b.tmoSizeOk := rfl
@[simp] theorem Block.countTxErr_tmoChunk (b : Block) : (b.countTxErr).tmoChunk = b.tmoChunk := rfl
@[simp] theorem Block.countTxErr_tmoImageOk (b : Block) : (b.countTxErr).tmoImageOk = b.tmoImageOk := rfl
@[simp] theorem Block.countTxErr_irqEn (b : Block) : (b.countTxErr).irqEn = b.irqEn := rfl
@[simp] theorem Block.countTxErr_irqPend (b : Block) : (b.countTxErr).irqPend = b.irqPend := rfl
@[simp] theorem Block.countTxErr_errcode (b : Block) : (b.countTxErr).errcode = b.errcode := rfl

@[simp] theorem Block.cmdError_arg (c : ErrCode) (b : Block) : (b.cmdError c).arg = b.arg := rfl
@[simp] theorem Block.cmdError_phase (c : ErrCode) (b : Block) : (b.cmdError c).phase = b.phase := rfl
@[simp] theorem Block.cmdError_cause (c : ErrCode) (b : Block) : (b.cmdError c).cause = b.cause := rfl
@[simp] theorem Block.cmdError_crcReg (c : ErrCode) (b : Block) : (b.cmdError c).crcReg = b.crcReg := rfl
@[simp] theorem Block.cmdError_tgt (c : ErrCode) (b : Block) : (b.cmdError c).tgt = b.tgt := rfl
@[simp] theorem Block.cmdError_tlen (c : ErrCode) (b : Block) : (b.cmdError c).tlen = b.tlen := rfl
@[simp] theorem Block.cmdError_cur (c : ErrCode) (b : Block) : (b.cmdError c).cur = b.cur := rfl
@[simp] theorem Block.cmdError_smode (c : ErrCode) (b : Block) : (b.cmdError c).smode = b.smode := rfl
@[simp] theorem Block.cmdError_budget (c : ErrCode) (b : Block) : (b.cmdError c).budget = b.budget := rfl
@[simp] theorem Block.cmdError_sres (c : ErrCode) (b : Block) : (b.cmdError c).sres = b.sres := rfl
@[simp] theorem Block.cmdError_len (c : ErrCode) (b : Block) : (b.cmdError c).len = b.len := rfl
@[simp] theorem Block.cmdError_idx (c : ErrCode) (b : Block) : (b.cmdError c).idx = b.idx := rfl
@[simp] theorem Block.cmdError_off (c : ErrCode) (b : Block) : (b.cmdError c).off = b.off := rfl
@[simp] theorem Block.cmdError_held (c : ErrCode) (b : Block) : (b.cmdError c).held = b.held := rfl
@[simp] theorem Block.cmdError_rxdata (c : ErrCode) (b : Block) : (b.cmdError c).rxdata = b.rxdata := rfl
@[simp] theorem Block.cmdError_acc (c : ErrCode) (b : Block) : (b.cmdError c).acc = b.acc := rfl
@[simp] theorem Block.cmdError_snap (c : ErrCode) (b : Block) : (b.cmdError c).snap = b.snap := rfl
@[simp] theorem Block.cmdError_expcrc (c : ErrCode) (b : Block) : (b.cmdError c).expcrc = b.expcrc := rfl
@[simp] theorem Block.cmdError_retries (c : ErrCode) (b : Block) : (b.cmdError c).retries = b.retries := rfl
@[simp] theorem Block.cmdError_txerrs (c : ErrCode) (b : Block) : (b.cmdError c).txerrs = b.txerrs := rfl
@[simp] theorem Block.cmdError_tmoSizeAck (c : ErrCode) (b : Block) : (b.cmdError c).tmoSizeAck = b.tmoSizeAck := rfl
@[simp] theorem Block.cmdError_tmoSizeOk (c : ErrCode) (b : Block) : (b.cmdError c).tmoSizeOk = b.tmoSizeOk := rfl
@[simp] theorem Block.cmdError_tmoChunk (c : ErrCode) (b : Block) : (b.cmdError c).tmoChunk = b.tmoChunk := rfl
@[simp] theorem Block.cmdError_tmoImageOk (c : ErrCode) (b : Block) : (b.cmdError c).tmoImageOk = b.tmoImageOk := rfl
@[simp] theorem Block.cmdError_irqEn (c : ErrCode) (b : Block) : (b.cmdError c).irqEn = b.irqEn := rfl
@[simp] theorem Block.cmdError_irqPend (c : ErrCode) (b : Block) : (b.cmdError c).irqPend = b.irqPend ||| Irq.cmdErr.mask := rfl
@[simp] theorem Block.cmdError_errcode (c : ErrCode) (b : Block) : (b.cmdError c).errcode = c := rfl

@[simp] theorem Block.abort_arg (c : Cause) (b : Block) : (b.abort c).arg = b.arg := rfl
@[simp] theorem Block.abort_phase (c : Cause) (b : Block) : (b.abort c).phase = .sAborted := rfl
@[simp] theorem Block.abort_cause (c : Cause) (b : Block) : (b.abort c).cause = c := rfl
@[simp] theorem Block.abort_crcReg (c : Cause) (b : Block) : (b.abort c).crcReg = b.crcReg := rfl
@[simp] theorem Block.abort_tgt (c : Cause) (b : Block) : (b.abort c).tgt = b.tgt := rfl
@[simp] theorem Block.abort_tlen (c : Cause) (b : Block) : (b.abort c).tlen = b.tlen := rfl
@[simp] theorem Block.abort_cur (c : Cause) (b : Block) : (b.abort c).cur = b.cur := rfl
@[simp] theorem Block.abort_smode (c : Cause) (b : Block) : (b.abort c).smode = b.smode := rfl
@[simp] theorem Block.abort_budget (c : Cause) (b : Block) : (b.abort c).budget = b.budget := rfl
@[simp] theorem Block.abort_sres (c : Cause) (b : Block) : (b.abort c).sres = b.sres := rfl
@[simp] theorem Block.abort_len (c : Cause) (b : Block) : (b.abort c).len = b.len := rfl
@[simp] theorem Block.abort_idx (c : Cause) (b : Block) : (b.abort c).idx = b.idx := rfl
@[simp] theorem Block.abort_off (c : Cause) (b : Block) : (b.abort c).off = b.off := rfl
@[simp] theorem Block.abort_held (c : Cause) (b : Block) : (b.abort c).held = b.held := rfl
@[simp] theorem Block.abort_rxdata (c : Cause) (b : Block) : (b.abort c).rxdata = b.rxdata := rfl
@[simp] theorem Block.abort_acc (c : Cause) (b : Block) : (b.abort c).acc = b.acc := rfl
@[simp] theorem Block.abort_snap (c : Cause) (b : Block) : (b.abort c).snap = b.snap := rfl
@[simp] theorem Block.abort_expcrc (c : Cause) (b : Block) : (b.abort c).expcrc = b.expcrc := rfl
@[simp] theorem Block.abort_retries (c : Cause) (b : Block) : (b.abort c).retries = b.retries := rfl
@[simp] theorem Block.abort_txerrs (c : Cause) (b : Block) : (b.abort c).txerrs = b.txerrs := rfl
@[simp] theorem Block.abort_tmoSizeAck (c : Cause) (b : Block) : (b.abort c).tmoSizeAck = b.tmoSizeAck := rfl
@[simp] theorem Block.abort_tmoSizeOk (c : Cause) (b : Block) : (b.abort c).tmoSizeOk = b.tmoSizeOk := rfl
@[simp] theorem Block.abort_tmoChunk (c : Cause) (b : Block) : (b.abort c).tmoChunk = b.tmoChunk := rfl
@[simp] theorem Block.abort_tmoImageOk (c : Cause) (b : Block) : (b.abort c).tmoImageOk = b.tmoImageOk := rfl
@[simp] theorem Block.abort_irqEn (c : Cause) (b : Block) : (b.abort c).irqEn = b.irqEn := rfl
@[simp] theorem Block.abort_irqPend (c : Cause) (b : Block) : (b.abort c).irqPend = b.irqPend ||| Irq.abort.mask := rfl
@[simp] theorem Block.abort_errcode (c : Cause) (b : Block) : (b.abort c).errcode = b.errcode := rfl

@[simp] theorem Block.txAbort_arg (b : Block) : (b.txAbort).arg = b.arg := rfl
@[simp] theorem Block.txAbort_phase (b : Block) : (b.txAbort).phase = .sAborted := rfl
@[simp] theorem Block.txAbort_cause (b : Block) : (b.txAbort).cause = .txError := rfl
@[simp] theorem Block.txAbort_crcReg (b : Block) : (b.txAbort).crcReg = b.crcReg := rfl
@[simp] theorem Block.txAbort_tgt (b : Block) : (b.txAbort).tgt = b.tgt := rfl
@[simp] theorem Block.txAbort_tlen (b : Block) : (b.txAbort).tlen = b.tlen := rfl
@[simp] theorem Block.txAbort_cur (b : Block) : (b.txAbort).cur = b.cur := rfl
@[simp] theorem Block.txAbort_smode (b : Block) : (b.txAbort).smode = b.smode := rfl
@[simp] theorem Block.txAbort_budget (b : Block) : (b.txAbort).budget = b.budget := rfl
@[simp] theorem Block.txAbort_sres (b : Block) : (b.txAbort).sres = b.sres := rfl
@[simp] theorem Block.txAbort_len (b : Block) : (b.txAbort).len = b.len := rfl
@[simp] theorem Block.txAbort_idx (b : Block) : (b.txAbort).idx = b.idx := rfl
@[simp] theorem Block.txAbort_off (b : Block) : (b.txAbort).off = b.off := rfl
@[simp] theorem Block.txAbort_held (b : Block) : (b.txAbort).held = b.held := rfl
@[simp] theorem Block.txAbort_rxdata (b : Block) : (b.txAbort).rxdata = b.rxdata := rfl
@[simp] theorem Block.txAbort_acc (b : Block) : (b.txAbort).acc = b.acc := rfl
@[simp] theorem Block.txAbort_snap (b : Block) : (b.txAbort).snap = b.snap := rfl
@[simp] theorem Block.txAbort_expcrc (b : Block) : (b.txAbort).expcrc = b.expcrc := rfl
@[simp] theorem Block.txAbort_retries (b : Block) : (b.txAbort).retries = b.retries := rfl
@[simp] theorem Block.txAbort_txerrs (b : Block) : (b.txAbort).txerrs = satInc32 b.txerrs := rfl
@[simp] theorem Block.txAbort_tmoSizeAck (b : Block) : (b.txAbort).tmoSizeAck = b.tmoSizeAck := rfl
@[simp] theorem Block.txAbort_tmoSizeOk (b : Block) : (b.txAbort).tmoSizeOk = b.tmoSizeOk := rfl
@[simp] theorem Block.txAbort_tmoChunk (b : Block) : (b.txAbort).tmoChunk = b.tmoChunk := rfl
@[simp] theorem Block.txAbort_tmoImageOk (b : Block) : (b.txAbort).tmoImageOk = b.tmoImageOk := rfl
@[simp] theorem Block.txAbort_irqEn (b : Block) : (b.txAbort).irqEn = b.irqEn := rfl
@[simp] theorem Block.txAbort_irqPend (b : Block) : (b.txAbort).irqPend = b.irqPend ||| Irq.abort.mask := rfl
@[simp] theorem Block.txAbort_errcode (b : Block) : (b.txAbort).errcode = b.errcode := rfl

@[simp] theorem Block.closeScan_arg (r : ScanEnd) (b : Block) : (b.closeScan r).arg = b.arg := rfl
@[simp] theorem Block.closeScan_phase (r : ScanEnd) (b : Block) : (b.closeScan r).phase = b.phase := rfl
@[simp] theorem Block.closeScan_cause (r : ScanEnd) (b : Block) : (b.closeScan r).cause = b.cause := rfl
@[simp] theorem Block.closeScan_crcReg (r : ScanEnd) (b : Block) : (b.closeScan r).crcReg = b.crcReg := rfl
@[simp] theorem Block.closeScan_tgt (r : ScanEnd) (b : Block) : (b.closeScan r).tgt = b.tgt := rfl
@[simp] theorem Block.closeScan_tlen (r : ScanEnd) (b : Block) : (b.closeScan r).tlen = b.tlen := rfl
@[simp] theorem Block.closeScan_cur (r : ScanEnd) (b : Block) : (b.closeScan r).cur = b.cur := rfl
@[simp] theorem Block.closeScan_smode (r : ScanEnd) (b : Block) : (b.closeScan r).smode = .idle := rfl
@[simp] theorem Block.closeScan_budget (r : ScanEnd) (b : Block) : (b.closeScan r).budget = b.budget := rfl
@[simp] theorem Block.closeScan_sres (r : ScanEnd) (b : Block) : (b.closeScan r).sres = r.result := rfl
@[simp] theorem Block.closeScan_len (r : ScanEnd) (b : Block) : (b.closeScan r).len = b.len := rfl
@[simp] theorem Block.closeScan_idx (r : ScanEnd) (b : Block) : (b.closeScan r).idx = b.idx := rfl
@[simp] theorem Block.closeScan_off (r : ScanEnd) (b : Block) : (b.closeScan r).off = b.off := rfl
@[simp] theorem Block.closeScan_held (r : ScanEnd) (b : Block) : (b.closeScan r).held = b.held := rfl
@[simp] theorem Block.closeScan_rxdata (r : ScanEnd) (b : Block) : (b.closeScan r).rxdata = b.rxdata := rfl
@[simp] theorem Block.closeScan_acc (r : ScanEnd) (b : Block) : (b.closeScan r).acc = b.acc := rfl
@[simp] theorem Block.closeScan_snap (r : ScanEnd) (b : Block) : (b.closeScan r).snap = b.snap := rfl
@[simp] theorem Block.closeScan_expcrc (r : ScanEnd) (b : Block) : (b.closeScan r).expcrc = b.expcrc := rfl
@[simp] theorem Block.closeScan_retries (r : ScanEnd) (b : Block) : (b.closeScan r).retries = b.retries := rfl
@[simp] theorem Block.closeScan_txerrs (r : ScanEnd) (b : Block) : (b.closeScan r).txerrs = b.txerrs := rfl
@[simp] theorem Block.closeScan_tmoSizeAck (r : ScanEnd) (b : Block) : (b.closeScan r).tmoSizeAck = b.tmoSizeAck := rfl
@[simp] theorem Block.closeScan_tmoSizeOk (r : ScanEnd) (b : Block) : (b.closeScan r).tmoSizeOk = b.tmoSizeOk := rfl
@[simp] theorem Block.closeScan_tmoChunk (r : ScanEnd) (b : Block) : (b.closeScan r).tmoChunk = b.tmoChunk := rfl
@[simp] theorem Block.closeScan_tmoImageOk (r : ScanEnd) (b : Block) : (b.closeScan r).tmoImageOk = b.tmoImageOk := rfl
@[simp] theorem Block.closeScan_irqEn (r : ScanEnd) (b : Block) : (b.closeScan r).irqEn = b.irqEn := rfl
@[simp] theorem Block.closeScan_irqPend (r : ScanEnd) (b : Block) : (b.closeScan r).irqPend = b.irqPend ||| Irq.scanDone.mask := rfl
@[simp] theorem Block.closeScan_errcode (r : ScanEnd) (b : Block) : (b.closeScan r).errcode = b.errcode := rfl

@[simp] theorem Block.loadTarget_arg (s : List Byte) (b : Block) : (b.loadTarget s).arg = b.arg := rfl
@[simp] theorem Block.loadTarget_phase (s : List Byte) (b : Block) : (b.loadTarget s).phase = b.phase := rfl
@[simp] theorem Block.loadTarget_cause (s : List Byte) (b : Block) : (b.loadTarget s).cause = b.cause := rfl
@[simp] theorem Block.loadTarget_crcReg (s : List Byte) (b : Block) : (b.loadTarget s).crcReg = b.crcReg := rfl
@[simp] theorem Block.loadTarget_tgt (s : List Byte) (b : Block) : (b.loadTarget s).tgt = writeTarget s 0 b.tgt := rfl
@[simp] theorem Block.loadTarget_tlen (s : List Byte) (b : Block) : (b.loadTarget s).tlen = BitVec.ofNat 5 s.length := rfl
@[simp] theorem Block.loadTarget_cur (s : List Byte) (b : Block) : (b.loadTarget s).cur = 0 := rfl
@[simp] theorem Block.loadTarget_smode (s : List Byte) (b : Block) : (b.loadTarget s).smode = b.smode := rfl
@[simp] theorem Block.loadTarget_budget (s : List Byte) (b : Block) : (b.loadTarget s).budget = b.budget := rfl
@[simp] theorem Block.loadTarget_sres (s : List Byte) (b : Block) : (b.loadTarget s).sres = .none := rfl
@[simp] theorem Block.loadTarget_len (s : List Byte) (b : Block) : (b.loadTarget s).len = b.len := rfl
@[simp] theorem Block.loadTarget_idx (s : List Byte) (b : Block) : (b.loadTarget s).idx = b.idx := rfl
@[simp] theorem Block.loadTarget_off (s : List Byte) (b : Block) : (b.loadTarget s).off = b.off := rfl
@[simp] theorem Block.loadTarget_held (s : List Byte) (b : Block) : (b.loadTarget s).held = b.held := rfl
@[simp] theorem Block.loadTarget_rxdata (s : List Byte) (b : Block) : (b.loadTarget s).rxdata = b.rxdata := rfl
@[simp] theorem Block.loadTarget_acc (s : List Byte) (b : Block) : (b.loadTarget s).acc = b.acc := rfl
@[simp] theorem Block.loadTarget_snap (s : List Byte) (b : Block) : (b.loadTarget s).snap = b.snap := rfl
@[simp] theorem Block.loadTarget_expcrc (s : List Byte) (b : Block) : (b.loadTarget s).expcrc = b.expcrc := rfl
@[simp] theorem Block.loadTarget_retries (s : List Byte) (b : Block) : (b.loadTarget s).retries = b.retries := rfl
@[simp] theorem Block.loadTarget_txerrs (s : List Byte) (b : Block) : (b.loadTarget s).txerrs = b.txerrs := rfl
@[simp] theorem Block.loadTarget_tmoSizeAck (s : List Byte) (b : Block) : (b.loadTarget s).tmoSizeAck = b.tmoSizeAck := rfl
@[simp] theorem Block.loadTarget_tmoSizeOk (s : List Byte) (b : Block) : (b.loadTarget s).tmoSizeOk = b.tmoSizeOk := rfl
@[simp] theorem Block.loadTarget_tmoChunk (s : List Byte) (b : Block) : (b.loadTarget s).tmoChunk = b.tmoChunk := rfl
@[simp] theorem Block.loadTarget_tmoImageOk (s : List Byte) (b : Block) : (b.loadTarget s).tmoImageOk = b.tmoImageOk := rfl
@[simp] theorem Block.loadTarget_irqEn (s : List Byte) (b : Block) : (b.loadTarget s).irqEn = b.irqEn := rfl
@[simp] theorem Block.loadTarget_irqPend (s : List Byte) (b : Block) : (b.loadTarget s).irqPend = b.irqPend := rfl
@[simp] theorem Block.loadTarget_errcode (s : List Byte) (b : Block) : (b.loadTarget s).errcode = b.errcode := rfl

@[simp] theorem Block.startScan_arg (k : TokKind) (n : DWord) (m : ScanMode) (v : Word) (b : Block) : (b.startScan k n m v).arg = b.arg := rfl
@[simp] theorem Block.startScan_phase (k : TokKind) (n : DWord) (m : ScanMode) (v : Word) (b : Block) : (b.startScan k n m v).phase = b.phase := rfl
@[simp] theorem Block.startScan_cause (k : TokKind) (n : DWord) (m : ScanMode) (v : Word) (b : Block) : (b.startScan k n m v).cause = b.cause := rfl
@[simp] theorem Block.startScan_crcReg (k : TokKind) (n : DWord) (m : ScanMode) (v : Word) (b : Block) : (b.startScan k n m v).crcReg = b.crcReg := rfl
@[simp] theorem Block.startScan_tgt (k : TokKind) (n : DWord) (m : ScanMode) (v : Word) (b : Block) : (b.startScan k n m v).tgt = writeTarget (tok k n) 0 b.tgt := rfl
@[simp] theorem Block.startScan_tlen (k : TokKind) (n : DWord) (m : ScanMode) (v : Word) (b : Block) : (b.startScan k n m v).tlen = BitVec.ofNat 5 (tok k n).length := rfl
@[simp] theorem Block.startScan_cur (k : TokKind) (n : DWord) (m : ScanMode) (v : Word) (b : Block) : (b.startScan k n m v).cur = 0 := rfl
@[simp] theorem Block.startScan_smode (k : TokKind) (n : DWord) (m : ScanMode) (v : Word) (b : Block) : (b.startScan k n m v).smode = m := rfl
@[simp] theorem Block.startScan_budget (k : TokKind) (n : DWord) (m : ScanMode) (v : Word) (b : Block) : (b.startScan k n m v).budget = if m = .bounded then v else b.budget := rfl
@[simp] theorem Block.startScan_sres (k : TokKind) (n : DWord) (m : ScanMode) (v : Word) (b : Block) : (b.startScan k n m v).sres = .none := rfl
@[simp] theorem Block.startScan_len (k : TokKind) (n : DWord) (m : ScanMode) (v : Word) (b : Block) : (b.startScan k n m v).len = b.len := rfl
@[simp] theorem Block.startScan_idx (k : TokKind) (n : DWord) (m : ScanMode) (v : Word) (b : Block) : (b.startScan k n m v).idx = b.idx := rfl
@[simp] theorem Block.startScan_off (k : TokKind) (n : DWord) (m : ScanMode) (v : Word) (b : Block) : (b.startScan k n m v).off = b.off := rfl
@[simp] theorem Block.startScan_held (k : TokKind) (n : DWord) (m : ScanMode) (v : Word) (b : Block) : (b.startScan k n m v).held = b.held := rfl
@[simp] theorem Block.startScan_rxdata (k : TokKind) (n : DWord) (m : ScanMode) (v : Word) (b : Block) : (b.startScan k n m v).rxdata = b.rxdata := rfl
@[simp] theorem Block.startScan_acc (k : TokKind) (n : DWord) (m : ScanMode) (v : Word) (b : Block) : (b.startScan k n m v).acc = b.acc := rfl
@[simp] theorem Block.startScan_snap (k : TokKind) (n : DWord) (m : ScanMode) (v : Word) (b : Block) : (b.startScan k n m v).snap = b.snap := rfl
@[simp] theorem Block.startScan_expcrc (k : TokKind) (n : DWord) (m : ScanMode) (v : Word) (b : Block) : (b.startScan k n m v).expcrc = b.expcrc := rfl
@[simp] theorem Block.startScan_retries (k : TokKind) (n : DWord) (m : ScanMode) (v : Word) (b : Block) : (b.startScan k n m v).retries = b.retries := rfl
@[simp] theorem Block.startScan_txerrs (k : TokKind) (n : DWord) (m : ScanMode) (v : Word) (b : Block) : (b.startScan k n m v).txerrs = b.txerrs := rfl
@[simp] theorem Block.startScan_tmoSizeAck (k : TokKind) (n : DWord) (m : ScanMode) (v : Word) (b : Block) : (b.startScan k n m v).tmoSizeAck = b.tmoSizeAck := rfl
@[simp] theorem Block.startScan_tmoSizeOk (k : TokKind) (n : DWord) (m : ScanMode) (v : Word) (b : Block) : (b.startScan k n m v).tmoSizeOk = b.tmoSizeOk := rfl
@[simp] theorem Block.startScan_tmoChunk (k : TokKind) (n : DWord) (m : ScanMode) (v : Word) (b : Block) : (b.startScan k n m v).tmoChunk = b.tmoChunk := rfl
@[simp] theorem Block.startScan_tmoImageOk (k : TokKind) (n : DWord) (m : ScanMode) (v : Word) (b : Block) : (b.startScan k n m v).tmoImageOk = b.tmoImageOk := rfl
@[simp] theorem Block.startScan_irqEn (k : TokKind) (n : DWord) (m : ScanMode) (v : Word) (b : Block) : (b.startScan k n m v).irqEn = b.irqEn := rfl
@[simp] theorem Block.startScan_irqPend (k : TokKind) (n : DWord) (m : ScanMode) (v : Word) (b : Block) : (b.startScan k n m v).irqPend = b.irqPend := rfl
@[simp] theorem Block.startScan_errcode (k : TokKind) (n : DWord) (m : ScanMode) (v : Word) (b : Block) : (b.startScan k n m v).errcode = b.errcode := rfl

@[simp] theorem Block.enterSendChunk_arg (b : Block) : (b.enterSendChunk).arg = b.arg := rfl
@[simp] theorem Block.enterSendChunk_phase (b : Block) : (b.enterSendChunk).phase = .sSendChunk := rfl
@[simp] theorem Block.enterSendChunk_cause (b : Block) : (b.enterSendChunk).cause = b.cause := rfl
@[simp] theorem Block.enterSendChunk_crcReg (b : Block) : (b.enterSendChunk).crcReg = b.crcReg := rfl
@[simp] theorem Block.enterSendChunk_tgt (b : Block) : (b.enterSendChunk).tgt = b.tgt := rfl
@[simp] theorem Block.enterSendChunk_tlen (b : Block) : (b.enterSendChunk).tlen = b.tlen := rfl
@[simp] theorem Block.enterSendChunk_cur (b : Block) : (b.enterSendChunk).cur = b.cur := rfl
@[simp] theorem Block.enterSendChunk_smode (b : Block) : (b.enterSendChunk).smode = b.smode := rfl
@[simp] theorem Block.enterSendChunk_budget (b : Block) : (b.enterSendChunk).budget = b.budget := rfl
@[simp] theorem Block.enterSendChunk_sres (b : Block) : (b.enterSendChunk).sres = b.sres := rfl
@[simp] theorem Block.enterSendChunk_len (b : Block) : (b.enterSendChunk).len = b.len := rfl
@[simp] theorem Block.enterSendChunk_idx (b : Block) : (b.enterSendChunk).idx = b.idx := rfl
@[simp] theorem Block.enterSendChunk_off (b : Block) : (b.enterSendChunk).off = chunkStart b.idx := rfl
@[simp] theorem Block.enterSendChunk_held (b : Block) : (b.enterSendChunk).held = b.held := rfl
@[simp] theorem Block.enterSendChunk_rxdata (b : Block) : (b.enterSendChunk).rxdata = b.rxdata := rfl
@[simp] theorem Block.enterSendChunk_acc (b : Block) : (b.enterSendChunk).acc = b.snap := rfl
@[simp] theorem Block.enterSendChunk_snap (b : Block) : (b.enterSendChunk).snap = b.snap := rfl
@[simp] theorem Block.enterSendChunk_expcrc (b : Block) : (b.enterSendChunk).expcrc = b.expcrc := rfl
@[simp] theorem Block.enterSendChunk_retries (b : Block) : (b.enterSendChunk).retries = b.retries := rfl
@[simp] theorem Block.enterSendChunk_txerrs (b : Block) : (b.enterSendChunk).txerrs = b.txerrs := rfl
@[simp] theorem Block.enterSendChunk_tmoSizeAck (b : Block) : (b.enterSendChunk).tmoSizeAck = b.tmoSizeAck := rfl
@[simp] theorem Block.enterSendChunk_tmoSizeOk (b : Block) : (b.enterSendChunk).tmoSizeOk = b.tmoSizeOk := rfl
@[simp] theorem Block.enterSendChunk_tmoChunk (b : Block) : (b.enterSendChunk).tmoChunk = b.tmoChunk := rfl
@[simp] theorem Block.enterSendChunk_tmoImageOk (b : Block) : (b.enterSendChunk).tmoImageOk = b.tmoImageOk := rfl
@[simp] theorem Block.enterSendChunk_irqEn (b : Block) : (b.enterSendChunk).irqEn = b.irqEn := rfl
@[simp] theorem Block.enterSendChunk_irqPend (b : Block) : (b.enterSendChunk).irqPend = b.irqPend ||| Irq.chunkReq.mask := rfl
@[simp] theorem Block.enterSendChunk_errcode (b : Block) : (b.enterSendChunk).errcode = b.errcode := rfl

@[simp] theorem Block.retransmit_arg (b : Block) : (b.retransmit).arg = b.arg := rfl
@[simp] theorem Block.retransmit_phase (b : Block) : (b.retransmit).phase = .sSendChunk := rfl
@[simp] theorem Block.retransmit_cause (b : Block) : (b.retransmit).cause = b.cause := rfl
@[simp] theorem Block.retransmit_crcReg (b : Block) : (b.retransmit).crcReg = b.crcReg := rfl
@[simp] theorem Block.retransmit_tgt (b : Block) : (b.retransmit).tgt = b.tgt := rfl
@[simp] theorem Block.retransmit_tlen (b : Block) : (b.retransmit).tlen = b.tlen := rfl
@[simp] theorem Block.retransmit_cur (b : Block) : (b.retransmit).cur = b.cur := rfl
@[simp] theorem Block.retransmit_smode (b : Block) : (b.retransmit).smode = b.smode := rfl
@[simp] theorem Block.retransmit_budget (b : Block) : (b.retransmit).budget = b.budget := rfl
@[simp] theorem Block.retransmit_sres (b : Block) : (b.retransmit).sres = b.sres := rfl
@[simp] theorem Block.retransmit_len (b : Block) : (b.retransmit).len = b.len := rfl
@[simp] theorem Block.retransmit_idx (b : Block) : (b.retransmit).idx = b.idx := rfl
@[simp] theorem Block.retransmit_off (b : Block) : (b.retransmit).off = chunkStart b.idx := rfl
@[simp] theorem Block.retransmit_held (b : Block) : (b.retransmit).held = b.held := rfl
@[simp] theorem Block.retransmit_rxdata (b : Block) : (b.retransmit).rxdata = b.rxdata := rfl
@[simp] theorem Block.retransmit_acc (b : Block) : (b.retransmit).acc = b.snap := rfl
@[simp] theorem Block.retransmit_snap (b : Block) : (b.retransmit).snap = b.snap := rfl
@[simp] theorem Block.retransmit_expcrc (b : Block) : (b.retransmit).expcrc = b.expcrc := rfl
@[simp] theorem Block.retransmit_retries (b : Block) : (b.retransmit).retries = satInc32 b.retries := rfl
@[simp] theorem Block.retransmit_txerrs (b : Block) : (b.retransmit).txerrs = b.txerrs := rfl
@[simp] theorem Block.retransmit_tmoSizeAck (b : Block) : (b.retransmit).tmoSizeAck = b.tmoSizeAck := rfl
@[simp] theorem Block.retransmit_tmoSizeOk (b : Block) : (b.retransmit).tmoSizeOk = b.tmoSizeOk := rfl
@[simp] theorem Block.retransmit_tmoChunk (b : Block) : (b.retransmit).tmoChunk = b.tmoChunk := rfl
@[simp] theorem Block.retransmit_tmoImageOk (b : Block) : (b.retransmit).tmoImageOk = b.tmoImageOk := rfl
@[simp] theorem Block.retransmit_irqEn (b : Block) : (b.retransmit).irqEn = b.irqEn := rfl
@[simp] theorem Block.retransmit_irqPend (b : Block) : (b.retransmit).irqPend = b.irqPend ||| Irq.chunkReq.mask := rfl
@[simp] theorem Block.retransmit_errcode (b : Block) : (b.retransmit).errcode = b.errcode := rfl

@[simp] theorem Block.enterImageOk_arg (b : Block) : (b.enterImageOk).arg = b.arg := rfl
@[simp] theorem Block.enterImageOk_phase (b : Block) : (b.enterImageOk).phase = .sAwaitImageOk := rfl
@[simp] theorem Block.enterImageOk_cause (b : Block) : (b.enterImageOk).cause = b.cause := rfl
@[simp] theorem Block.enterImageOk_crcReg (b : Block) : (b.enterImageOk).crcReg = b.crcReg := rfl
@[simp] theorem Block.enterImageOk_tgt (b : Block) : (b.enterImageOk).tgt = writeTarget (tok .ok (crcNumber (crcFinal b.acc))) 0 b.tgt := rfl
@[simp] theorem Block.enterImageOk_tlen (b : Block) : (b.enterImageOk).tlen = BitVec.ofNat 5 (tok .ok (crcNumber (crcFinal b.acc))).length := rfl
@[simp] theorem Block.enterImageOk_cur (b : Block) : (b.enterImageOk).cur = 0 := rfl
@[simp] theorem Block.enterImageOk_smode (b : Block) : (b.enterImageOk).smode = .bounded := rfl
@[simp] theorem Block.enterImageOk_budget (b : Block) : (b.enterImageOk).budget = b.tmoImageOk := rfl
@[simp] theorem Block.enterImageOk_sres (b : Block) : (b.enterImageOk).sres = .none := rfl
@[simp] theorem Block.enterImageOk_len (b : Block) : (b.enterImageOk).len = b.len := rfl
@[simp] theorem Block.enterImageOk_idx (b : Block) : (b.enterImageOk).idx = b.idx := rfl
@[simp] theorem Block.enterImageOk_off (b : Block) : (b.enterImageOk).off = b.off := rfl
@[simp] theorem Block.enterImageOk_held (b : Block) : (b.enterImageOk).held = b.held := rfl
@[simp] theorem Block.enterImageOk_rxdata (b : Block) : (b.enterImageOk).rxdata = b.rxdata := rfl
@[simp] theorem Block.enterImageOk_acc (b : Block) : (b.enterImageOk).acc = b.acc := rfl
@[simp] theorem Block.enterImageOk_snap (b : Block) : (b.enterImageOk).snap = b.snap := rfl
@[simp] theorem Block.enterImageOk_expcrc (b : Block) : (b.enterImageOk).expcrc = crcFinal b.acc := rfl
@[simp] theorem Block.enterImageOk_retries (b : Block) : (b.enterImageOk).retries = b.retries := rfl
@[simp] theorem Block.enterImageOk_txerrs (b : Block) : (b.enterImageOk).txerrs = b.txerrs := rfl
@[simp] theorem Block.enterImageOk_tmoSizeAck (b : Block) : (b.enterImageOk).tmoSizeAck = b.tmoSizeAck := rfl
@[simp] theorem Block.enterImageOk_tmoSizeOk (b : Block) : (b.enterImageOk).tmoSizeOk = b.tmoSizeOk := rfl
@[simp] theorem Block.enterImageOk_tmoChunk (b : Block) : (b.enterImageOk).tmoChunk = b.tmoChunk := rfl
@[simp] theorem Block.enterImageOk_tmoImageOk (b : Block) : (b.enterImageOk).tmoImageOk = b.tmoImageOk := rfl
@[simp] theorem Block.enterImageOk_irqEn (b : Block) : (b.enterImageOk).irqEn = b.irqEn := rfl
@[simp] theorem Block.enterImageOk_irqPend (b : Block) : (b.enterImageOk).irqPend = b.irqPend := rfl
@[simp] theorem Block.enterImageOk_errcode (b : Block) : (b.enterImageOk).errcode = b.errcode := rfl

@[simp] theorem Block.enterSizeAck_arg (b : Block) : (b.enterSizeAck).arg = b.arg := rfl
@[simp] theorem Block.enterSizeAck_phase (b : Block) : (b.enterSizeAck).phase = .sAwaitSizeAck := rfl
@[simp] theorem Block.enterSizeAck_cause (b : Block) : (b.enterSizeAck).cause = b.cause := rfl
@[simp] theorem Block.enterSizeAck_crcReg (b : Block) : (b.enterSizeAck).crcReg = b.crcReg := rfl
@[simp] theorem Block.enterSizeAck_tgt (b : Block) : (b.enterSizeAck).tgt = writeTarget (tok .ack 0) 0 b.tgt := rfl
@[simp] theorem Block.enterSizeAck_tlen (b : Block) : (b.enterSizeAck).tlen = BitVec.ofNat 5 (tok .ack 0).length := rfl
@[simp] theorem Block.enterSizeAck_cur (b : Block) : (b.enterSizeAck).cur = 0 := rfl
@[simp] theorem Block.enterSizeAck_smode (b : Block) : (b.enterSizeAck).smode = .bounded := rfl
@[simp] theorem Block.enterSizeAck_budget (b : Block) : (b.enterSizeAck).budget = b.tmoSizeAck := rfl
@[simp] theorem Block.enterSizeAck_sres (b : Block) : (b.enterSizeAck).sres = .none := rfl
@[simp] theorem Block.enterSizeAck_len (b : Block) : (b.enterSizeAck).len = b.len := rfl
@[simp] theorem Block.enterSizeAck_idx (b : Block) : (b.enterSizeAck).idx = b.idx := rfl
@[simp] theorem Block.enterSizeAck_off (b : Block) : (b.enterSizeAck).off = b.off := rfl
@[simp] theorem Block.enterSizeAck_held (b : Block) : (b.enterSizeAck).held = b.held := rfl
@[simp] theorem Block.enterSizeAck_rxdata (b : Block) : (b.enterSizeAck).rxdata = b.rxdata := rfl
@[simp] theorem Block.enterSizeAck_acc (b : Block) : (b.enterSizeAck).acc = b.acc := rfl
@[simp] theorem Block.enterSizeAck_snap (b : Block) : (b.enterSizeAck).snap = b.snap := rfl
@[simp] theorem Block.enterSizeAck_expcrc (b : Block) : (b.enterSizeAck).expcrc = checksum (be8 b.len) := rfl
@[simp] theorem Block.enterSizeAck_retries (b : Block) : (b.enterSizeAck).retries = b.retries := rfl
@[simp] theorem Block.enterSizeAck_txerrs (b : Block) : (b.enterSizeAck).txerrs = b.txerrs := rfl
@[simp] theorem Block.enterSizeAck_tmoSizeAck (b : Block) : (b.enterSizeAck).tmoSizeAck = b.tmoSizeAck := rfl
@[simp] theorem Block.enterSizeAck_tmoSizeOk (b : Block) : (b.enterSizeAck).tmoSizeOk = b.tmoSizeOk := rfl
@[simp] theorem Block.enterSizeAck_tmoChunk (b : Block) : (b.enterSizeAck).tmoChunk = b.tmoChunk := rfl
@[simp] theorem Block.enterSizeAck_tmoImageOk (b : Block) : (b.enterSizeAck).tmoImageOk = b.tmoImageOk := rfl
@[simp] theorem Block.enterSizeAck_irqEn (b : Block) : (b.enterSizeAck).irqEn = b.irqEn := rfl
@[simp] theorem Block.enterSizeAck_irqPend (b : Block) : (b.enterSizeAck).irqPend = b.irqPend := rfl
@[simp] theorem Block.enterSizeAck_errcode (b : Block) : (b.enterSizeAck).errcode = b.errcode := rfl

@[simp] theorem Block.enterSizeOk_arg (b : Block) : (b.enterSizeOk).arg = b.arg := rfl
@[simp] theorem Block.enterSizeOk_phase (b : Block) : (b.enterSizeOk).phase = .sAwaitSizeOk := rfl
@[simp] theorem Block.enterSizeOk_cause (b : Block) : (b.enterSizeOk).cause = b.cause := rfl
@[simp] theorem Block.enterSizeOk_crcReg (b : Block) : (b.enterSizeOk).crcReg = b.crcReg := rfl
@[simp] theorem Block.enterSizeOk_tgt (b : Block) : (b.enterSizeOk).tgt = writeTarget (tok .ok (crcNumber b.expcrc)) 0 b.tgt := rfl
@[simp] theorem Block.enterSizeOk_tlen (b : Block) : (b.enterSizeOk).tlen = BitVec.ofNat 5 (tok .ok (crcNumber b.expcrc)).length := rfl
@[simp] theorem Block.enterSizeOk_cur (b : Block) : (b.enterSizeOk).cur = 0 := rfl
@[simp] theorem Block.enterSizeOk_smode (b : Block) : (b.enterSizeOk).smode = .bounded := rfl
@[simp] theorem Block.enterSizeOk_budget (b : Block) : (b.enterSizeOk).budget = b.tmoSizeOk := rfl
@[simp] theorem Block.enterSizeOk_sres (b : Block) : (b.enterSizeOk).sres = .none := rfl
@[simp] theorem Block.enterSizeOk_len (b : Block) : (b.enterSizeOk).len = b.len := rfl
@[simp] theorem Block.enterSizeOk_idx (b : Block) : (b.enterSizeOk).idx = b.idx := rfl
@[simp] theorem Block.enterSizeOk_off (b : Block) : (b.enterSizeOk).off = b.off := rfl
@[simp] theorem Block.enterSizeOk_held (b : Block) : (b.enterSizeOk).held = b.held := rfl
@[simp] theorem Block.enterSizeOk_rxdata (b : Block) : (b.enterSizeOk).rxdata = b.rxdata := rfl
@[simp] theorem Block.enterSizeOk_acc (b : Block) : (b.enterSizeOk).acc = b.acc := rfl
@[simp] theorem Block.enterSizeOk_snap (b : Block) : (b.enterSizeOk).snap = b.snap := rfl
@[simp] theorem Block.enterSizeOk_expcrc (b : Block) : (b.enterSizeOk).expcrc = b.expcrc := rfl
@[simp] theorem Block.enterSizeOk_retries (b : Block) : (b.enterSizeOk).retries = b.retries := rfl
@[simp] theorem Block.enterSizeOk_txerrs (b : Block) : (b.enterSizeOk).txerrs = b.txerrs := rfl
@[simp] theorem Block.enterSizeOk_tmoSizeAck (b : Block) : (b.enterSizeOk).tmoSizeAck = b.tmoSizeAck := rfl
@[simp] theorem Block.enterSizeOk_tmoSizeOk (b : Block) : (b.enterSizeOk).tmoSizeOk = b.tmoSizeOk := rfl
@[simp] theorem Block.enterSizeOk_tmoChunk (b : Block) : (b.enterSizeOk).tmoChunk = b.tmoChunk := rfl
@[simp] theorem Block.enterSizeOk_tmoImageOk (b : Block) : (b.enterSizeOk).tmoImageOk = b.tmoImageOk := rfl
@[simp] theorem Block.enterSizeOk_irqEn (b : Block) : (b.enterSizeOk).irqEn = b.irqEn := rfl
@[simp] theorem Block.enterSizeOk_irqPend (b : Block) : (b.enterSizeOk).irqPend = b.irqPend := rfl
@[simp] theorem Block.enterSizeOk_errcode (b : Block) : (b.enterSizeOk).errcode = b.errcode := rfl

@[simp] theorem Block.enterChunkAck_arg (b : Block) : (b.enterChunkAck).arg = b.arg := rfl
@[simp] theorem Block.enterChunkAck_phase (b : Block) : (b.enterChunkAck).phase = .sAwaitChunkAck := rfl
@[simp] theorem Block.enterChunkAck_cause (b : Block) : (b.enterChunkAck).cause = b.cause := rfl
@[simp] theorem Block.enterChunkAck_crcReg (b : Block) : (b.enterChunkAck).crcReg = b.crcReg := rfl
@[simp] theorem Block.enterChunkAck_tgt (b : Block) : (b.enterChunkAck).tgt = writeTarget (tok .ack b.idx) 0 b.tgt := rfl
@[simp] theorem Block.enterChunkAck_tlen (b : Block) : (b.enterChunkAck).tlen = BitVec.ofNat 5 (tok .ack b.idx).length := rfl
@[simp] theorem Block.enterChunkAck_cur (b : Block) : (b.enterChunkAck).cur = 0 := rfl
@[simp] theorem Block.enterChunkAck_smode (b : Block) : (b.enterChunkAck).smode = .bounded := rfl
@[simp] theorem Block.enterChunkAck_budget (b : Block) : (b.enterChunkAck).budget = b.tmoChunk := rfl
@[simp] theorem Block.enterChunkAck_sres (b : Block) : (b.enterChunkAck).sres = .none := rfl
@[simp] theorem Block.enterChunkAck_len (b : Block) : (b.enterChunkAck).len = b.len := rfl
@[simp] theorem Block.enterChunkAck_idx (b : Block) : (b.enterChunkAck).idx = b.idx := rfl
@[simp] theorem Block.enterChunkAck_off (b : Block) : (b.enterChunkAck).off = b.off := rfl
@[simp] theorem Block.enterChunkAck_held (b : Block) : (b.enterChunkAck).held = b.held := rfl
@[simp] theorem Block.enterChunkAck_rxdata (b : Block) : (b.enterChunkAck).rxdata = b.rxdata := rfl
@[simp] theorem Block.enterChunkAck_acc (b : Block) : (b.enterChunkAck).acc = b.acc := rfl
@[simp] theorem Block.enterChunkAck_snap (b : Block) : (b.enterChunkAck).snap = b.snap := rfl
@[simp] theorem Block.enterChunkAck_expcrc (b : Block) : (b.enterChunkAck).expcrc = b.expcrc := rfl
@[simp] theorem Block.enterChunkAck_retries (b : Block) : (b.enterChunkAck).retries = b.retries := rfl
@[simp] theorem Block.enterChunkAck_txerrs (b : Block) : (b.enterChunkAck).txerrs = b.txerrs := rfl
@[simp] theorem Block.enterChunkAck_tmoSizeAck (b : Block) : (b.enterChunkAck).tmoSizeAck = b.tmoSizeAck := rfl
@[simp] theorem Block.enterChunkAck_tmoSizeOk (b : Block) : (b.enterChunkAck).tmoSizeOk = b.tmoSizeOk := rfl
@[simp] theorem Block.enterChunkAck_tmoChunk (b : Block) : (b.enterChunkAck).tmoChunk = b.tmoChunk := rfl
@[simp] theorem Block.enterChunkAck_tmoImageOk (b : Block) : (b.enterChunkAck).tmoImageOk = b.tmoImageOk := rfl
@[simp] theorem Block.enterChunkAck_irqEn (b : Block) : (b.enterChunkAck).irqEn = b.irqEn := rfl
@[simp] theorem Block.enterChunkAck_irqPend (b : Block) : (b.enterChunkAck).irqPend = b.irqPend := rfl
@[simp] theorem Block.enterChunkAck_errcode (b : Block) : (b.enterChunkAck).errcode = b.errcode := rfl

@[simp] theorem Block.beginImage_arg (b : Block) : (b.beginImage).arg = b.arg := rfl
@[simp] theorem Block.beginImage_phase (b : Block) : (b.beginImage).phase = b.phase := rfl
@[simp] theorem Block.beginImage_cause (b : Block) : (b.beginImage).cause = b.cause := rfl
@[simp] theorem Block.beginImage_crcReg (b : Block) : (b.beginImage).crcReg = b.crcReg := rfl
@[simp] theorem Block.beginImage_tgt (b : Block) : (b.beginImage).tgt = b.tgt := rfl
@[simp] theorem Block.beginImage_tlen (b : Block) : (b.beginImage).tlen = b.tlen := rfl
@[simp] theorem Block.beginImage_cur (b : Block) : (b.beginImage).cur = b.cur := rfl
@[simp] theorem Block.beginImage_smode (b : Block) : (b.beginImage).smode = b.smode := rfl
@[simp] theorem Block.beginImage_budget (b : Block) : (b.beginImage).budget = b.budget := rfl
@[simp] theorem Block.beginImage_sres (b : Block) : (b.beginImage).sres = b.sres := rfl
@[simp] theorem Block.beginImage_len (b : Block) : (b.beginImage).len = b.len := rfl
@[simp] theorem Block.beginImage_idx (b : Block) : (b.beginImage).idx = 0 := rfl
@[simp] theorem Block.beginImage_off (b : Block) : (b.beginImage).off = b.off := rfl
@[simp] theorem Block.beginImage_held (b : Block) : (b.beginImage).held = b.held := rfl
@[simp] theorem Block.beginImage_rxdata (b : Block) : (b.beginImage).rxdata = b.rxdata := rfl
@[simp] theorem Block.beginImage_acc (b : Block) : (b.beginImage).acc = crcInitial := rfl
@[simp] theorem Block.beginImage_snap (b : Block) : (b.beginImage).snap = crcInitial := rfl
@[simp] theorem Block.beginImage_expcrc (b : Block) : (b.beginImage).expcrc = b.expcrc := rfl
@[simp] theorem Block.beginImage_retries (b : Block) : (b.beginImage).retries = b.retries := rfl
@[simp] theorem Block.beginImage_txerrs (b : Block) : (b.beginImage).txerrs = b.txerrs := rfl
@[simp] theorem Block.beginImage_tmoSizeAck (b : Block) : (b.beginImage).tmoSizeAck = b.tmoSizeAck := rfl
@[simp] theorem Block.beginImage_tmoSizeOk (b : Block) : (b.beginImage).tmoSizeOk = b.tmoSizeOk := rfl
@[simp] theorem Block.beginImage_tmoChunk (b : Block) : (b.beginImage).tmoChunk = b.tmoChunk := rfl
@[simp] theorem Block.beginImage_tmoImageOk (b : Block) : (b.beginImage).tmoImageOk = b.tmoImageOk := rfl
@[simp] theorem Block.beginImage_irqEn (b : Block) : (b.beginImage).irqEn = b.irqEn := rfl
@[simp] theorem Block.beginImage_irqPend (b : Block) : (b.beginImage).irqPend = b.irqPend := rfl
@[simp] theorem Block.beginImage_errcode (b : Block) : (b.beginImage).errcode = b.errcode := rfl

@[simp] theorem Block.commitChunk_arg (b : Block) : (b.commitChunk).arg = b.arg := rfl
@[simp] theorem Block.commitChunk_phase (b : Block) : (b.commitChunk).phase = b.phase := rfl
@[simp] theorem Block.commitChunk_cause (b : Block) : (b.commitChunk).cause = b.cause := rfl
@[simp] theorem Block.commitChunk_crcReg (b : Block) : (b.commitChunk).crcReg = b.crcReg := rfl
@[simp] theorem Block.commitChunk_tgt (b : Block) : (b.commitChunk).tgt = b.tgt := rfl
@[simp] theorem Block.commitChunk_tlen (b : Block) : (b.commitChunk).tlen = b.tlen := rfl
@[simp] theorem Block.commitChunk_cur (b : Block) : (b.commitChunk).cur = b.cur := rfl
@[simp] theorem Block.commitChunk_smode (b : Block) : (b.commitChunk).smode = b.smode := rfl
@[simp] theorem Block.commitChunk_budget (b : Block) : (b.commitChunk).budget = b.budget := rfl
@[simp] theorem Block.commitChunk_sres (b : Block) : (b.commitChunk).sres = b.sres := rfl
@[simp] theorem Block.commitChunk_len (b : Block) : (b.commitChunk).len = b.len := rfl
@[simp] theorem Block.commitChunk_idx (b : Block) : (b.commitChunk).idx = b.idx := rfl
@[simp] theorem Block.commitChunk_off (b : Block) : (b.commitChunk).off = b.off := rfl
@[simp] theorem Block.commitChunk_held (b : Block) : (b.commitChunk).held = b.held := rfl
@[simp] theorem Block.commitChunk_rxdata (b : Block) : (b.commitChunk).rxdata = b.rxdata := rfl
@[simp] theorem Block.commitChunk_acc (b : Block) : (b.commitChunk).acc = b.acc := rfl
@[simp] theorem Block.commitChunk_snap (b : Block) : (b.commitChunk).snap = b.acc := rfl
@[simp] theorem Block.commitChunk_expcrc (b : Block) : (b.commitChunk).expcrc = b.expcrc := rfl
@[simp] theorem Block.commitChunk_retries (b : Block) : (b.commitChunk).retries = b.retries := rfl
@[simp] theorem Block.commitChunk_txerrs (b : Block) : (b.commitChunk).txerrs = b.txerrs := rfl
@[simp] theorem Block.commitChunk_tmoSizeAck (b : Block) : (b.commitChunk).tmoSizeAck = b.tmoSizeAck := rfl
@[simp] theorem Block.commitChunk_tmoSizeOk (b : Block) : (b.commitChunk).tmoSizeOk = b.tmoSizeOk := rfl
@[simp] theorem Block.commitChunk_tmoChunk (b : Block) : (b.commitChunk).tmoChunk = b.tmoChunk := rfl
@[simp] theorem Block.commitChunk_tmoImageOk (b : Block) : (b.commitChunk).tmoImageOk = b.tmoImageOk := rfl
@[simp] theorem Block.commitChunk_irqEn (b : Block) : (b.commitChunk).irqEn = b.irqEn := rfl
@[simp] theorem Block.commitChunk_irqPend (b : Block) : (b.commitChunk).irqPend = b.irqPend := rfl
@[simp] theorem Block.commitChunk_errcode (b : Block) : (b.commitChunk).errcode = b.errcode := rfl

@[simp] theorem Block.nextChunk_arg (b : Block) : (b.nextChunk).arg = b.arg := rfl
@[simp] theorem Block.nextChunk_phase (b : Block) : (b.nextChunk).phase = b.phase := rfl
@[simp] theorem Block.nextChunk_cause (b : Block) : (b.nextChunk).cause = b.cause := rfl
@[simp] theorem Block.nextChunk_crcReg (b : Block) : (b.nextChunk).crcReg = b.crcReg := rfl
@[simp] theorem Block.nextChunk_tgt (b : Block) : (b.nextChunk).tgt = b.tgt := rfl
@[simp] theorem Block.nextChunk_tlen (b : Block) : (b.nextChunk).tlen = b.tlen := rfl
@[simp] theorem Block.nextChunk_cur (b : Block) : (b.nextChunk).cur = b.cur := rfl
@[simp] theorem Block.nextChunk_smode (b : Block) : (b.nextChunk).smode = b.smode := rfl
@[simp] theorem Block.nextChunk_budget (b : Block) : (b.nextChunk).budget = b.budget := rfl
@[simp] theorem Block.nextChunk_sres (b : Block) : (b.nextChunk).sres = b.sres := rfl
@[simp] theorem Block.nextChunk_len (b : Block) : (b.nextChunk).len = b.len := rfl
@[simp] theorem Block.nextChunk_idx (b : Block) : (b.nextChunk).idx = b.idx + 1 := rfl
@[simp] theorem Block.nextChunk_off (b : Block) : (b.nextChunk).off = b.off := rfl
@[simp] theorem Block.nextChunk_held (b : Block) : (b.nextChunk).held = b.held := rfl
@[simp] theorem Block.nextChunk_rxdata (b : Block) : (b.nextChunk).rxdata = b.rxdata := rfl
@[simp] theorem Block.nextChunk_acc (b : Block) : (b.nextChunk).acc = b.acc := rfl
@[simp] theorem Block.nextChunk_snap (b : Block) : (b.nextChunk).snap = b.snap := rfl
@[simp] theorem Block.nextChunk_expcrc (b : Block) : (b.nextChunk).expcrc = b.expcrc := rfl
@[simp] theorem Block.nextChunk_retries (b : Block) : (b.nextChunk).retries = b.retries := rfl
@[simp] theorem Block.nextChunk_txerrs (b : Block) : (b.nextChunk).txerrs = b.txerrs := rfl
@[simp] theorem Block.nextChunk_tmoSizeAck (b : Block) : (b.nextChunk).tmoSizeAck = b.tmoSizeAck := rfl
@[simp] theorem Block.nextChunk_tmoSizeOk (b : Block) : (b.nextChunk).tmoSizeOk = b.tmoSizeOk := rfl
@[simp] theorem Block.nextChunk_tmoChunk (b : Block) : (b.nextChunk).tmoChunk = b.tmoChunk := rfl
@[simp] theorem Block.nextChunk_tmoImageOk (b : Block) : (b.nextChunk).tmoImageOk = b.tmoImageOk := rfl
@[simp] theorem Block.nextChunk_irqEn (b : Block) : (b.nextChunk).irqEn = b.irqEn := rfl
@[simp] theorem Block.nextChunk_irqPend (b : Block) : (b.nextChunk).irqPend = b.irqPend := rfl
@[simp] theorem Block.nextChunk_errcode (b : Block) : (b.nextChunk).errcode = b.errcode := rfl

@[simp] theorem Block.enterDone_arg (b : Block) : (b.enterDone).arg = b.arg := rfl
@[simp] theorem Block.enterDone_phase (b : Block) : (b.enterDone).phase = .sDone := rfl
@[simp] theorem Block.enterDone_cause (b : Block) : (b.enterDone).cause = b.cause := rfl
@[simp] theorem Block.enterDone_crcReg (b : Block) : (b.enterDone).crcReg = b.crcReg := rfl
@[simp] theorem Block.enterDone_tgt (b : Block) : (b.enterDone).tgt = b.tgt := rfl
@[simp] theorem Block.enterDone_tlen (b : Block) : (b.enterDone).tlen = b.tlen := rfl
@[simp] theorem Block.enterDone_cur (b : Block) : (b.enterDone).cur = b.cur := rfl
@[simp] theorem Block.enterDone_smode (b : Block) : (b.enterDone).smode = b.smode := rfl
@[simp] theorem Block.enterDone_budget (b : Block) : (b.enterDone).budget = b.budget := rfl
@[simp] theorem Block.enterDone_sres (b : Block) : (b.enterDone).sres = b.sres := rfl
@[simp] theorem Block.enterDone_len (b : Block) : (b.enterDone).len = b.len := rfl
@[simp] theorem Block.enterDone_idx (b : Block) : (b.enterDone).idx = b.idx := rfl
@[simp] theorem Block.enterDone_off (b : Block) : (b.enterDone).off = b.off := rfl
@[simp] theorem Block.enterDone_held (b : Block) : (b.enterDone).held = b.held := rfl
@[simp] theorem Block.enterDone_rxdata (b : Block) : (b.enterDone).rxdata = b.rxdata := rfl
@[simp] theorem Block.enterDone_acc (b : Block) : (b.enterDone).acc = b.acc := rfl
@[simp] theorem Block.enterDone_snap (b : Block) : (b.enterDone).snap = b.snap := rfl
@[simp] theorem Block.enterDone_expcrc (b : Block) : (b.enterDone).expcrc = b.expcrc := rfl
@[simp] theorem Block.enterDone_retries (b : Block) : (b.enterDone).retries = b.retries := rfl
@[simp] theorem Block.enterDone_txerrs (b : Block) : (b.enterDone).txerrs = b.txerrs := rfl
@[simp] theorem Block.enterDone_tmoSizeAck (b : Block) : (b.enterDone).tmoSizeAck = b.tmoSizeAck := rfl
@[simp] theorem Block.enterDone_tmoSizeOk (b : Block) : (b.enterDone).tmoSizeOk = b.tmoSizeOk := rfl
@[simp] theorem Block.enterDone_tmoChunk (b : Block) : (b.enterDone).tmoChunk = b.tmoChunk := rfl
@[simp] theorem Block.enterDone_tmoImageOk (b : Block) : (b.enterDone).tmoImageOk = b.tmoImageOk := rfl
@[simp] theorem Block.enterDone_irqEn (b : Block) : (b.enterDone).irqEn = b.irqEn := rfl
@[simp] theorem Block.enterDone_irqPend (b : Block) : (b.enterDone).irqPend = b.irqPend ||| Irq.done.mask := rfl
@[simp] theorem Block.enterDone_errcode (b : Block) : (b.enterDone).errcode = b.errcode := rfl

@[simp] theorem Block.beginConfirmSize_arg (b : Block) : (b.beginConfirmSize).arg = b.arg := rfl
@[simp] theorem Block.beginConfirmSize_phase (b : Block) : (b.beginConfirmSize).phase = .rConfirmSize := rfl
@[simp] theorem Block.beginConfirmSize_cause (b : Block) : (b.beginConfirmSize).cause = b.cause := rfl
@[simp] theorem Block.beginConfirmSize_crcReg (b : Block) : (b.beginConfirmSize).crcReg = b.crcReg := rfl
@[simp] theorem Block.beginConfirmSize_tgt (b : Block) : (b.beginConfirmSize).tgt = b.tgt := rfl
@[simp] theorem Block.beginConfirmSize_tlen (b : Block) : (b.beginConfirmSize).tlen = b.tlen := rfl
@[simp] theorem Block.beginConfirmSize_cur (b : Block) : (b.beginConfirmSize).cur = b.cur := rfl
@[simp] theorem Block.beginConfirmSize_smode (b : Block) : (b.beginConfirmSize).smode = b.smode := rfl
@[simp] theorem Block.beginConfirmSize_budget (b : Block) : (b.beginConfirmSize).budget = b.budget := rfl
@[simp] theorem Block.beginConfirmSize_sres (b : Block) : (b.beginConfirmSize).sres = b.sres := rfl
@[simp] theorem Block.beginConfirmSize_len (b : Block) : (b.beginConfirmSize).len = b.len := rfl
@[simp] theorem Block.beginConfirmSize_idx (b : Block) : (b.beginConfirmSize).idx = b.idx := rfl
@[simp] theorem Block.beginConfirmSize_off (b : Block) : (b.beginConfirmSize).off = b.off := rfl
@[simp] theorem Block.beginConfirmSize_held (b : Block) : (b.beginConfirmSize).held = b.held := rfl
@[simp] theorem Block.beginConfirmSize_rxdata (b : Block) : (b.beginConfirmSize).rxdata = b.rxdata := rfl
@[simp] theorem Block.beginConfirmSize_acc (b : Block) : (b.beginConfirmSize).acc = b.acc := rfl
@[simp] theorem Block.beginConfirmSize_snap (b : Block) : (b.beginConfirmSize).snap = b.snap := rfl
@[simp] theorem Block.beginConfirmSize_expcrc (b : Block) : (b.beginConfirmSize).expcrc = crcFinal b.acc := rfl
@[simp] theorem Block.beginConfirmSize_retries (b : Block) : (b.beginConfirmSize).retries = b.retries := rfl
@[simp] theorem Block.beginConfirmSize_txerrs (b : Block) : (b.beginConfirmSize).txerrs = b.txerrs := rfl
@[simp] theorem Block.beginConfirmSize_tmoSizeAck (b : Block) : (b.beginConfirmSize).tmoSizeAck = b.tmoSizeAck := rfl
@[simp] theorem Block.beginConfirmSize_tmoSizeOk (b : Block) : (b.beginConfirmSize).tmoSizeOk = b.tmoSizeOk := rfl
@[simp] theorem Block.beginConfirmSize_tmoChunk (b : Block) : (b.beginConfirmSize).tmoChunk = b.tmoChunk := rfl
@[simp] theorem Block.beginConfirmSize_tmoImageOk (b : Block) : (b.beginConfirmSize).tmoImageOk = b.tmoImageOk := rfl
@[simp] theorem Block.beginConfirmSize_irqEn (b : Block) : (b.beginConfirmSize).irqEn = b.irqEn := rfl
@[simp] theorem Block.beginConfirmSize_irqPend (b : Block) : (b.beginConfirmSize).irqPend = b.irqPend := rfl
@[simp] theorem Block.beginConfirmSize_errcode (b : Block) : (b.beginConfirmSize).errcode = b.errcode := rfl

@[simp] theorem Block.enterAllocWait_arg (b : Block) : (b.enterAllocWait).arg = b.arg := rfl
@[simp] theorem Block.enterAllocWait_phase (b : Block) : (b.enterAllocWait).phase = .rAllocWait := rfl
@[simp] theorem Block.enterAllocWait_cause (b : Block) : (b.enterAllocWait).cause = b.cause := rfl
@[simp] theorem Block.enterAllocWait_crcReg (b : Block) : (b.enterAllocWait).crcReg = b.crcReg := rfl
@[simp] theorem Block.enterAllocWait_tgt (b : Block) : (b.enterAllocWait).tgt = b.tgt := rfl
@[simp] theorem Block.enterAllocWait_tlen (b : Block) : (b.enterAllocWait).tlen = b.tlen := rfl
@[simp] theorem Block.enterAllocWait_cur (b : Block) : (b.enterAllocWait).cur = b.cur := rfl
@[simp] theorem Block.enterAllocWait_smode (b : Block) : (b.enterAllocWait).smode = b.smode := rfl
@[simp] theorem Block.enterAllocWait_budget (b : Block) : (b.enterAllocWait).budget = b.budget := rfl
@[simp] theorem Block.enterAllocWait_sres (b : Block) : (b.enterAllocWait).sres = b.sres := rfl
@[simp] theorem Block.enterAllocWait_len (b : Block) : (b.enterAllocWait).len = b.len := rfl
@[simp] theorem Block.enterAllocWait_idx (b : Block) : (b.enterAllocWait).idx = 0 := rfl
@[simp] theorem Block.enterAllocWait_off (b : Block) : (b.enterAllocWait).off = 0 := rfl
@[simp] theorem Block.enterAllocWait_held (b : Block) : (b.enterAllocWait).held = b.held := rfl
@[simp] theorem Block.enterAllocWait_rxdata (b : Block) : (b.enterAllocWait).rxdata = b.rxdata := rfl
@[simp] theorem Block.enterAllocWait_acc (b : Block) : (b.enterAllocWait).acc = crcInitial := rfl
@[simp] theorem Block.enterAllocWait_snap (b : Block) : (b.enterAllocWait).snap = crcInitial := rfl
@[simp] theorem Block.enterAllocWait_expcrc (b : Block) : (b.enterAllocWait).expcrc = b.expcrc := rfl
@[simp] theorem Block.enterAllocWait_retries (b : Block) : (b.enterAllocWait).retries = b.retries := rfl
@[simp] theorem Block.enterAllocWait_txerrs (b : Block) : (b.enterAllocWait).txerrs = b.txerrs := rfl
@[simp] theorem Block.enterAllocWait_tmoSizeAck (b : Block) : (b.enterAllocWait).tmoSizeAck = b.tmoSizeAck := rfl
@[simp] theorem Block.enterAllocWait_tmoSizeOk (b : Block) : (b.enterAllocWait).tmoSizeOk = b.tmoSizeOk := rfl
@[simp] theorem Block.enterAllocWait_tmoChunk (b : Block) : (b.enterAllocWait).tmoChunk = b.tmoChunk := rfl
@[simp] theorem Block.enterAllocWait_tmoImageOk (b : Block) : (b.enterAllocWait).tmoImageOk = b.tmoImageOk := rfl
@[simp] theorem Block.enterAllocWait_irqEn (b : Block) : (b.enterAllocWait).irqEn = b.irqEn := rfl
@[simp] theorem Block.enterAllocWait_irqPend (b : Block) : (b.enterAllocWait).irqPend = b.irqPend ||| Irq.allocReq.mask := rfl
@[simp] theorem Block.enterAllocWait_errcode (b : Block) : (b.enterAllocWait).errcode = b.errcode := rfl

@[simp] theorem Block.beginConfirmImage_arg (b : Block) : (b.beginConfirmImage).arg = b.arg := rfl
@[simp] theorem Block.beginConfirmImage_phase (b : Block) : (b.beginConfirmImage).phase = .rConfirmImage := rfl
@[simp] theorem Block.beginConfirmImage_cause (b : Block) : (b.beginConfirmImage).cause = b.cause := rfl
@[simp] theorem Block.beginConfirmImage_crcReg (b : Block) : (b.beginConfirmImage).crcReg = b.crcReg := rfl
@[simp] theorem Block.beginConfirmImage_tgt (b : Block) : (b.beginConfirmImage).tgt = b.tgt := rfl
@[simp] theorem Block.beginConfirmImage_tlen (b : Block) : (b.beginConfirmImage).tlen = b.tlen := rfl
@[simp] theorem Block.beginConfirmImage_cur (b : Block) : (b.beginConfirmImage).cur = b.cur := rfl
@[simp] theorem Block.beginConfirmImage_smode (b : Block) : (b.beginConfirmImage).smode = b.smode := rfl
@[simp] theorem Block.beginConfirmImage_budget (b : Block) : (b.beginConfirmImage).budget = b.budget := rfl
@[simp] theorem Block.beginConfirmImage_sres (b : Block) : (b.beginConfirmImage).sres = b.sres := rfl
@[simp] theorem Block.beginConfirmImage_len (b : Block) : (b.beginConfirmImage).len = b.len := rfl
@[simp] theorem Block.beginConfirmImage_idx (b : Block) : (b.beginConfirmImage).idx = b.idx := rfl
@[simp] theorem Block.beginConfirmImage_off (b : Block) : (b.beginConfirmImage).off = b.off := rfl
@[simp] theorem Block.beginConfirmImage_held (b : Block) : (b.beginConfirmImage).held = b.held := rfl
@[simp] theorem Block.beginConfirmImage_rxdata (b : Block) : (b.beginConfirmImage).rxdata = b.rxdata := rfl
@[simp] theorem Block.beginConfirmImage_acc (b : Block) : (b.beginConfirmImage).acc = b.acc := rfl
@[simp] theorem Block.beginConfirmImage_snap (b : Block) : (b.beginConfirmImage).snap = b.snap := rfl
@[simp] theorem Block.beginConfirmImage_expcrc (b : Block) : (b.beginConfirmImage).expcrc = crcFinal b.acc := rfl
@[simp] theorem Block.beginConfirmImage_retries (b : Block) : (b.beginConfirmImage).retries = b.retries := rfl
@[simp] theorem Block.beginConfirmImage_txerrs (b : Block) : (b.beginConfirmImage).txerrs = b.txerrs := rfl
@[simp] theorem Block.beginConfirmImage_tmoSizeAck (b : Block) : (b.beginConfirmImage).tmoSizeAck = b.tmoSizeAck := rfl
@[simp] theorem Block.beginConfirmImage_tmoSizeOk (b : Block) : (b.beginConfirmImage).tmoSizeOk = b.tmoSizeOk := rfl
@[simp] theorem Block.beginConfirmImage_tmoChunk (b : Block) : (b.beginConfirmImage).tmoChunk = b.tmoChunk := rfl
@[simp] theorem Block.beginConfirmImage_tmoImageOk (b : Block) : (b.beginConfirmImage).tmoImageOk = b.tmoImageOk := rfl
@[simp] theorem Block.beginConfirmImage_irqEn (b : Block) : (b.beginConfirmImage).irqEn = b.irqEn := rfl
@[simp] theorem Block.beginConfirmImage_irqPend (b : Block) : (b.beginConfirmImage).irqPend = b.irqPend := rfl
@[simp] theorem Block.beginConfirmImage_errcode (b : Block) : (b.beginConfirmImage).errcode = b.errcode := rfl

@[simp] theorem Block.enterHandoff_arg (b : Block) : (b.enterHandoff).arg = b.arg := rfl
@[simp] theorem Block.enterHandoff_phase (b : Block) : (b.enterHandoff).phase = .rHandoff := rfl
@[simp] theorem Block.enterHandoff_cause (b : Block) : (b.enterHandoff).cause = b.cause := rfl
@[simp] theorem Block.enterHandoff_crcReg (b : Block) : (b.enterHandoff).crcReg = b.crcReg := rfl
@[simp] theorem Block.enterHandoff_tgt (b : Block) : (b.enterHandoff).tgt = b.tgt := rfl
@[simp] theorem Block.enterHandoff_tlen (b : Block) : (b.enterHandoff).tlen = b.tlen := rfl
@[simp] theorem Block.enterHandoff_cur (b : Block) : (b.enterHandoff).cur = b.cur := rfl
@[simp] theorem Block.enterHandoff_smode (b : Block) : (b.enterHandoff).smode = b.smode := rfl
@[simp] theorem Block.enterHandoff_budget (b : Block) : (b.enterHandoff).budget = b.budget := rfl
@[simp] theorem Block.enterHandoff_sres (b : Block) : (b.enterHandoff).sres = b.sres := rfl
@[simp] theorem Block.enterHandoff_len (b : Block) : (b.enterHandoff).len = b.len := rfl
@[simp] theorem Block.enterHandoff_idx (b : Block) : (b.enterHandoff).idx = b.idx := rfl
@[simp] theorem Block.enterHandoff_off (b : Block) : (b.enterHandoff).off = b.off := rfl
@[simp] theorem Block.enterHandoff_held (b : Block) : (b.enterHandoff).held = b.held := rfl
@[simp] theorem Block.enterHandoff_rxdata (b : Block) : (b.enterHandoff).rxdata = b.rxdata := rfl
@[simp] theorem Block.enterHandoff_acc (b : Block) : (b.enterHandoff).acc = b.acc := rfl
@[simp] theorem Block.enterHandoff_snap (b : Block) : (b.enterHandoff).snap = b.snap := rfl
@[simp] theorem Block.enterHandoff_expcrc (b : Block) : (b.enterHandoff).expcrc = b.expcrc := rfl
@[simp] theorem Block.enterHandoff_retries (b : Block) : (b.enterHandoff).retries = b.retries := rfl
@[simp] theorem Block.enterHandoff_txerrs (b : Block) : (b.enterHandoff).txerrs = b.txerrs := rfl
@[simp] theorem Block.enterHandoff_tmoSizeAck (b : Block) : (b.enterHandoff).tmoSizeAck = b.tmoSizeAck := rfl
@[simp] theorem Block.enterHandoff_tmoSizeOk (b : Block) : (b.enterHandoff).tmoSizeOk = b.tmoSizeOk := rfl
@[simp] theorem Block.enterHandoff_tmoChunk (b : Block) : (b.enterHandoff).tmoChunk = b.tmoChunk := rfl
@[simp] theorem Block.enterHandoff_tmoImageOk (b : Block) : (b.enterHandoff).tmoImageOk = b.tmoImageOk := rfl
@[simp] theorem Block.enterHandoff_irqEn (b : Block) : (b.enterHandoff).irqEn = b.irqEn := rfl
@[simp] theorem Block.enterHandoff_irqPend (b : Block) : (b.enterHandoff).irqPend = b.irqPend ||| Irq.done.mask := rfl
@[simp] theorem Block.enterHandoff_errcode (b : Block) : (b.enterHandoff).errcode = b.errcode := rfl

@[simp] theorem Block.clearTransfer_arg (b : Block) : (b.clearTransfer).arg = b.arg := rfl
@[simp] theorem Block.clearTransfer_phase (b : Block) : (b.clearTransfer).phase = b.phase := rfl
@[simp] theorem Block.clearTransfer_cause (b : Block) : (b.clearTransfer).cause = .none := rfl
@[simp] theorem Block.clearTransfer_crcReg (b : Block) : (b.clearTransfer).crcReg = b.crcReg := rfl
@[simp] theorem Block.clearTransfer_tgt (b : Block) : (b.clearTransfer).tgt = b.tgt := rfl
@[simp] theorem Block.clearTransfer_tlen (b : Block) : (b.clearTransfer).tlen = b.tlen := rfl
@[simp] theorem Block.clearTransfer_cur (b : Block) : (b.clearTransfer).cur = b.cur := rfl
@[simp] theorem Block.clearTransfer_smode (b : Block) : (b.clearTransfer).smode = b.smode := rfl
@[simp] theorem Block.clearTransfer_budget (b : Block) : (b.clearTransfer).budget = b.budget := rfl
@[simp] theorem Block.clearTransfer_sres (b : Block) : (b.clearTransfer).sres = b.sres := rfl
@[simp] theorem Block.clearTransfer_len (b : Block) : (b.clearTransfer).len = b.len := rfl
@[simp] theorem Block.clearTransfer_idx (b : Block) : (b.clearTransfer).idx = 0 := rfl
@[simp] theorem Block.clearTransfer_off (b : Block) : (b.clearTransfer).off = 0 := rfl
@[simp] theorem Block.clearTransfer_held (b : Block) : (b.clearTransfer).held = false := rfl
@[simp] theorem Block.clearTransfer_rxdata (b : Block) : (b.clearTransfer).rxdata = b.rxdata := rfl
@[simp] theorem Block.clearTransfer_acc (b : Block) : (b.clearTransfer).acc = crcInitial := rfl
@[simp] theorem Block.clearTransfer_snap (b : Block) : (b.clearTransfer).snap = crcInitial := rfl
@[simp] theorem Block.clearTransfer_expcrc (b : Block) : (b.clearTransfer).expcrc = 0 := rfl
@[simp] theorem Block.clearTransfer_retries (b : Block) : (b.clearTransfer).retries = 0 := rfl
@[simp] theorem Block.clearTransfer_txerrs (b : Block) : (b.clearTransfer).txerrs = 0 := rfl
@[simp] theorem Block.clearTransfer_tmoSizeAck (b : Block) : (b.clearTransfer).tmoSizeAck = b.tmoSizeAck := rfl
@[simp] theorem Block.clearTransfer_tmoSizeOk (b : Block) : (b.clearTransfer).tmoSizeOk = b.tmoSizeOk := rfl
@[simp] theorem Block.clearTransfer_tmoChunk (b : Block) : (b.clearTransfer).tmoChunk = b.tmoChunk := rfl
@[simp] theorem Block.clearTransfer_tmoImageOk (b : Block) : (b.clearTransfer).tmoImageOk = b.tmoImageOk := rfl
@[simp] theorem Block.clearTransfer_irqEn (b : Block) : (b.clearTransfer).irqEn = b.irqEn := rfl
@[simp] theorem Block.clearTransfer_irqPend (b : Block) : (b.clearTransfer).irqPend = b.irqPend := rfl
@[simp] theorem Block.clearTransfer_errcode (b : Block) : (b.clearTransfer).errcode = b.errcode := rfl

@[simp] theorem Block.beginSend_arg (b : Block) : (b.beginSend).arg = b.arg := rfl
@[simp] theorem Block.beginSend_phase (b : Block) : (b.beginSend).phase = .sAwaitReady := rfl
@[simp] theorem Block.beginSend_cause (b : Block) : (b.beginSend).cause = .none := rfl
@[simp] theorem Block.beginSend_crcReg (b : Block) : (b.beginSend).crcReg = b.crcReg := rfl
@[simp] theorem Block.beginSend_tgt (b : Block) : (b.beginSend).tgt = writeTarget (tok .rdy (BitVec.ofNat 64 chunkSize)) 0 b.tgt := rfl
@[simp] theorem Block.beginSend_tlen (b : Block) : (b.beginSend).tlen = BitVec.ofNat 5 (tok .rdy (BitVec.ofNat 64 chunkSize)).length := rfl
@[simp] theorem Block.beginSend_cur (b : Block) : (b.beginSend).cur = 0 := rfl
@[simp] theorem Block.beginSend_smode (b : Block) : (b.beginSend).smode = .unbounded := rfl
@[simp] theorem Block.beginSend_budget (b : Block) : (b.beginSend).budget = b.budget := rfl
@[simp] theorem Block.beginSend_sres (b : Block) : (b.beginSend).sres = .none := rfl
@[simp] theorem Block.beginSend_len (b : Block) : (b.beginSend).len = b.arg := rfl
@[simp] theorem Block.beginSend_idx (b : Block) : (b.beginSend).idx = 0 := rfl
@[simp] theorem Block.beginSend_off (b : Block) : (b.beginSend).off = 0 := rfl
@[simp] theorem Block.beginSend_held (b : Block) : (b.beginSend).held = false := rfl
@[simp] theorem Block.beginSend_rxdata (b : Block) : (b.beginSend).rxdata = b.rxdata := rfl
@[simp] theorem Block.beginSend_acc (b : Block) : (b.beginSend).acc = crcInitial := rfl
@[simp] theorem Block.beginSend_snap (b : Block) : (b.beginSend).snap = crcInitial := rfl
@[simp] theorem Block.beginSend_expcrc (b : Block) : (b.beginSend).expcrc = 0 := rfl
@[simp] theorem Block.beginSend_retries (b : Block) : (b.beginSend).retries = 0 := rfl
@[simp] theorem Block.beginSend_txerrs (b : Block) : (b.beginSend).txerrs = 0 := rfl
@[simp] theorem Block.beginSend_tmoSizeAck (b : Block) : (b.beginSend).tmoSizeAck = b.tmoSizeAck := rfl
@[simp] theorem Block.beginSend_tmoSizeOk (b : Block) : (b.beginSend).tmoSizeOk = b.tmoSizeOk := rfl
@[simp] theorem Block.beginSend_tmoChunk (b : Block) : (b.beginSend).tmoChunk = b.tmoChunk := rfl
@[simp] theorem Block.beginSend_tmoImageOk (b : Block) : (b.beginSend).tmoImageOk = b.tmoImageOk := rfl
@[simp] theorem Block.beginSend_irqEn (b : Block) : (b.beginSend).irqEn = b.irqEn := rfl
@[simp] theorem Block.beginSend_irqPend (b : Block) : (b.beginSend).irqPend = b.irqPend := rfl
@[simp] theorem Block.beginSend_errcode (b : Block) : (b.beginSend).errcode = b.errcode := rfl

@[simp] theorem Block.beginReceive_arg (b : Block) : (b.beginReceive).arg = b.arg := rfl
@[simp] theorem Block.beginReceive_phase (b : Block) : (b.beginReceive).phase = .rInit := rfl
@[simp] theorem Block.beginReceive_cause (b : Block) : (b.beginReceive).cause = .none := rfl
@[simp] theorem Block.beginReceive_crcReg (b : Block) : (b.beginReceive).crcReg = b.crcReg := rfl
@[simp] theorem Block.beginReceive_tgt (b : Block) : (b.beginReceive).tgt = b.tgt := rfl
@[simp] theorem Block.beginReceive_tlen (b : Block) : (b.beginReceive).tlen = b.tlen := rfl
@[simp] theorem Block.beginReceive_cur (b : Block) : (b.beginReceive).cur = b.cur := rfl
@[simp] theorem Block.beginReceive_smode (b : Block) : (b.beginReceive).smode = b.smode := rfl
@[simp] theorem Block.beginReceive_budget (b : Block) : (b.beginReceive).budget = b.budget := rfl
@[simp] theorem Block.beginReceive_sres (b : Block) : (b.beginReceive).sres = b.sres := rfl
@[simp] theorem Block.beginReceive_len (b : Block) : (b.beginReceive).len = 0 := rfl
@[simp] theorem Block.beginReceive_idx (b : Block) : (b.beginReceive).idx = 0 := rfl
@[simp] theorem Block.beginReceive_off (b : Block) : (b.beginReceive).off = 0 := rfl
@[simp] theorem Block.beginReceive_held (b : Block) : (b.beginReceive).held = false := rfl
@[simp] theorem Block.beginReceive_rxdata (b : Block) : (b.beginReceive).rxdata = b.rxdata := rfl
@[simp] theorem Block.beginReceive_acc (b : Block) : (b.beginReceive).acc = crcInitial := rfl
@[simp] theorem Block.beginReceive_snap (b : Block) : (b.beginReceive).snap = crcInitial := rfl
@[simp] theorem Block.beginReceive_expcrc (b : Block) : (b.beginReceive).expcrc = 0 := rfl
@[simp] theorem Block.beginReceive_retries (b : Block) : (b.beginReceive).retries = 0 := rfl
@[simp] theorem Block.beginReceive_txerrs (b : Block) : (b.beginReceive).txerrs = 0 := rfl
@[simp] theorem Block.beginReceive_tmoSizeAck (b : Block) : (b.beginReceive).tmoSizeAck = b.tmoSizeAck := rfl
@[simp] theorem Block.beginReceive_tmoSizeOk (b : Block) : (b.beginReceive).tmoSizeOk = b.tmoSizeOk := rfl
@[simp] theorem Block.beginReceive_tmoChunk (b : Block) : (b.beginReceive).tmoChunk = b.tmoChunk := rfl
@[simp] theorem Block.beginReceive_tmoImageOk (b : Block) : (b.beginReceive).tmoImageOk = b.tmoImageOk := rfl
@[simp] theorem Block.beginReceive_irqEn (b : Block) : (b.beginReceive).irqEn = b.irqEn := rfl
@[simp] theorem Block.beginReceive_irqPend (b : Block) : (b.beginReceive).irqPend = b.irqPend := rfl
@[simp] theorem Block.beginReceive_errcode (b : Block) : (b.beginReceive).errcode = b.errcode := rfl

@[simp] theorem Block.countPayload_arg (x : Byte) (b : Block) : (b.countPayload x).arg = b.arg := rfl
@[simp] theorem Block.countPayload_phase (x : Byte) (b : Block) : (b.countPayload x).phase = b.phase := rfl
@[simp] theorem Block.countPayload_cause (x : Byte) (b : Block) : (b.countPayload x).cause = b.cause := rfl
@[simp] theorem Block.countPayload_crcReg (x : Byte) (b : Block) : (b.countPayload x).crcReg = b.crcReg := rfl
@[simp] theorem Block.countPayload_tgt (x : Byte) (b : Block) : (b.countPayload x).tgt = b.tgt := rfl
@[simp] theorem Block.countPayload_tlen (x : Byte) (b : Block) : (b.countPayload x).tlen = b.tlen := rfl
@[simp] theorem Block.countPayload_cur (x : Byte) (b : Block) : (b.countPayload x).cur = b.cur := rfl
@[simp] theorem Block.countPayload_smode (x : Byte) (b : Block) : (b.countPayload x).smode = b.smode := rfl
@[simp] theorem Block.countPayload_budget (x : Byte) (b : Block) : (b.countPayload x).budget = b.budget := rfl
@[simp] theorem Block.countPayload_sres (x : Byte) (b : Block) : (b.countPayload x).sres = b.sres := rfl
@[simp] theorem Block.countPayload_len (x : Byte) (b : Block) : (b.countPayload x).len = b.len := rfl
@[simp] theorem Block.countPayload_idx (x : Byte) (b : Block) : (b.countPayload x).idx = b.idx := rfl
@[simp] theorem Block.countPayload_off (x : Byte) (b : Block) : (b.countPayload x).off = b.off + 1 := rfl
@[simp] theorem Block.countPayload_held (x : Byte) (b : Block) : (b.countPayload x).held = b.held := rfl
@[simp] theorem Block.countPayload_rxdata (x : Byte) (b : Block) : (b.countPayload x).rxdata = b.rxdata := rfl
@[simp] theorem Block.countPayload_acc (x : Byte) (b : Block) : (b.countPayload x).acc = crcUpd b.acc x := rfl
@[simp] theorem Block.countPayload_snap (x : Byte) (b : Block) : (b.countPayload x).snap = b.snap := rfl
@[simp] theorem Block.countPayload_expcrc (x : Byte) (b : Block) : (b.countPayload x).expcrc = b.expcrc := rfl
@[simp] theorem Block.countPayload_retries (x : Byte) (b : Block) : (b.countPayload x).retries = b.retries := rfl
@[simp] theorem Block.countPayload_txerrs (x : Byte) (b : Block) : (b.countPayload x).txerrs = b.txerrs := rfl
@[simp] theorem Block.countPayload_tmoSizeAck (x : Byte) (b : Block) : (b.countPayload x).tmoSizeAck = b.tmoSizeAck := rfl
@[simp] theorem Block.countPayload_tmoSizeOk (x : Byte) (b : Block) : (b.countPayload x).tmoSizeOk = b.tmoSizeOk := rfl
@[simp] theorem Block.countPayload_tmoChunk (x : Byte) (b : Block) : (b.countPayload x).tmoChunk = b.tmoChunk := rfl
@[simp] theorem Block.countPayload_tmoImageOk (x : Byte) (b : Block) : (b.countPayload x).tmoImageOk = b.tmoImageOk := rfl
@[simp] theorem Block.countPayload_irqEn (x : Byte) (b : Block) : (b.countPayload x).irqEn = b.irqEn := rfl
@[simp] theorem Block.countPayload_irqPend (x : Byte) (b : Block) : (b.countPayload x).irqPend = b.irqPend := rfl
@[simp] theorem Block.countPayload_errcode (x : Byte) (b : Block) : (b.countPayload x).errcode = b.errcode := rfl

@[simp] theorem Block.halt_arg (b : Block) : (b.halt).arg = b.arg := rfl
@[simp] theorem Block.halt_phase (b : Block) : (b.halt).phase = .rHalted := rfl
@[simp] theorem Block.halt_cause (b : Block) : (b.halt).cause = .allocFailure := rfl
@[simp] theorem Block.halt_crcReg (b : Block) : (b.halt).crcReg = b.crcReg := rfl
@[simp] theorem Block.halt_tgt (b : Block) : (b.halt).tgt = b.tgt := rfl
@[simp] theorem Block.halt_tlen (b : Block) : (b.halt).tlen = b.tlen := rfl
@[simp] theorem Block.halt_cur (b : Block) : (b.halt).cur = b.cur := rfl
@[simp] theorem Block.halt_smode (b : Block) : (b.halt).smode = b.smode := rfl
@[simp] theorem Block.halt_budget (b : Block) : (b.halt).budget = b.budget := rfl
@[simp] theorem Block.halt_sres (b : Block) : (b.halt).sres = b.sres := rfl
@[simp] theorem Block.halt_len (b : Block) : (b.halt).len = b.len := rfl
@[simp] theorem Block.halt_idx (b : Block) : (b.halt).idx = b.idx := rfl
@[simp] theorem Block.halt_off (b : Block) : (b.halt).off = b.off := rfl
@[simp] theorem Block.halt_held (b : Block) : (b.halt).held = b.held := rfl
@[simp] theorem Block.halt_rxdata (b : Block) : (b.halt).rxdata = b.rxdata := rfl
@[simp] theorem Block.halt_acc (b : Block) : (b.halt).acc = b.acc := rfl
@[simp] theorem Block.halt_snap (b : Block) : (b.halt).snap = b.snap := rfl
@[simp] theorem Block.halt_expcrc (b : Block) : (b.halt).expcrc = b.expcrc := rfl
@[simp] theorem Block.halt_retries (b : Block) : (b.halt).retries = b.retries := rfl
@[simp] theorem Block.halt_txerrs (b : Block) : (b.halt).txerrs = b.txerrs := rfl
@[simp] theorem Block.halt_tmoSizeAck (b : Block) : (b.halt).tmoSizeAck = b.tmoSizeAck := rfl
@[simp] theorem Block.halt_tmoSizeOk (b : Block) : (b.halt).tmoSizeOk = b.tmoSizeOk := rfl
@[simp] theorem Block.halt_tmoChunk (b : Block) : (b.halt).tmoChunk = b.tmoChunk := rfl
@[simp] theorem Block.halt_tmoImageOk (b : Block) : (b.halt).tmoImageOk = b.tmoImageOk := rfl
@[simp] theorem Block.halt_irqEn (b : Block) : (b.halt).irqEn = b.irqEn := rfl
@[simp] theorem Block.halt_irqPend (b : Block) : (b.halt).irqPend = b.irqPend ||| Irq.abort.mask := rfl
@[simp] theorem Block.halt_errcode (b : Block) : (b.halt).errcode = b.errcode := rfl

@[simp] theorem Block.release_arg (b : Block) : (b.release).arg = b.arg := rfl
@[simp] theorem Block.release_phase (b : Block) : (b.release).phase = b.phase := rfl
@[simp] theorem Block.release_cause (b : Block) : (b.release).cause = b.cause := rfl
@[simp] theorem Block.release_crcReg (b : Block) : (b.release).crcReg = b.crcReg := rfl
@[simp] theorem Block.release_tgt (b : Block) : (b.release).tgt = b.tgt := rfl
@[simp] theorem Block.release_tlen (b : Block) : (b.release).tlen = b.tlen := rfl
@[simp] theorem Block.release_cur (b : Block) : (b.release).cur = b.cur := rfl
@[simp] theorem Block.release_smode (b : Block) : (b.release).smode = b.smode := rfl
@[simp] theorem Block.release_budget (b : Block) : (b.release).budget = b.budget := rfl
@[simp] theorem Block.release_sres (b : Block) : (b.release).sres = b.sres := rfl
@[simp] theorem Block.release_len (b : Block) : (b.release).len = b.len := rfl
@[simp] theorem Block.release_idx (b : Block) : (b.release).idx = b.idx := rfl
@[simp] theorem Block.release_off (b : Block) : (b.release).off = b.off + 1 := rfl
@[simp] theorem Block.release_held (b : Block) : (b.release).held = false := rfl
@[simp] theorem Block.release_rxdata (b : Block) : (b.release).rxdata = b.rxdata := rfl
@[simp] theorem Block.release_acc (b : Block) : (b.release).acc = b.acc := rfl
@[simp] theorem Block.release_snap (b : Block) : (b.release).snap = b.snap := rfl
@[simp] theorem Block.release_expcrc (b : Block) : (b.release).expcrc = b.expcrc := rfl
@[simp] theorem Block.release_retries (b : Block) : (b.release).retries = b.retries := rfl
@[simp] theorem Block.release_txerrs (b : Block) : (b.release).txerrs = b.txerrs := rfl
@[simp] theorem Block.release_tmoSizeAck (b : Block) : (b.release).tmoSizeAck = b.tmoSizeAck := rfl
@[simp] theorem Block.release_tmoSizeOk (b : Block) : (b.release).tmoSizeOk = b.tmoSizeOk := rfl
@[simp] theorem Block.release_tmoChunk (b : Block) : (b.release).tmoChunk = b.tmoChunk := rfl
@[simp] theorem Block.release_tmoImageOk (b : Block) : (b.release).tmoImageOk = b.tmoImageOk := rfl
@[simp] theorem Block.release_irqEn (b : Block) : (b.release).irqEn = b.irqEn := rfl
@[simp] theorem Block.release_irqPend (b : Block) : (b.release).irqPend = b.irqPend := rfl
@[simp] theorem Block.release_errcode (b : Block) : (b.release).errcode = b.errcode := rfl

@[simp] theorem Block.cleared_arg (b : Block) : (b.cleared).arg = b.arg := rfl
@[simp] theorem Block.cleared_phase (b : Block) : (b.cleared).phase = .idle := rfl
@[simp] theorem Block.cleared_cause (b : Block) : (b.cleared).cause = .none := rfl
@[simp] theorem Block.cleared_crcReg (b : Block) : (b.cleared).crcReg = b.crcReg := rfl
@[simp] theorem Block.cleared_tgt (b : Block) : (b.cleared).tgt = b.tgt := rfl
@[simp] theorem Block.cleared_tlen (b : Block) : (b.cleared).tlen = b.tlen := rfl
@[simp] theorem Block.cleared_cur (b : Block) : (b.cleared).cur = b.cur := rfl
@[simp] theorem Block.cleared_smode (b : Block) : (b.cleared).smode = b.smode := rfl
@[simp] theorem Block.cleared_budget (b : Block) : (b.cleared).budget = b.budget := rfl
@[simp] theorem Block.cleared_sres (b : Block) : (b.cleared).sres = b.sres := rfl
@[simp] theorem Block.cleared_len (b : Block) : (b.cleared).len = 0 := rfl
@[simp] theorem Block.cleared_idx (b : Block) : (b.cleared).idx = 0 := rfl
@[simp] theorem Block.cleared_off (b : Block) : (b.cleared).off = 0 := rfl
@[simp] theorem Block.cleared_held (b : Block) : (b.cleared).held = false := rfl
@[simp] theorem Block.cleared_rxdata (b : Block) : (b.cleared).rxdata = 0 := rfl
@[simp] theorem Block.cleared_acc (b : Block) : (b.cleared).acc = crcInitial := rfl
@[simp] theorem Block.cleared_snap (b : Block) : (b.cleared).snap = crcInitial := rfl
@[simp] theorem Block.cleared_expcrc (b : Block) : (b.cleared).expcrc = 0 := rfl
@[simp] theorem Block.cleared_retries (b : Block) : (b.cleared).retries = 0 := rfl
@[simp] theorem Block.cleared_txerrs (b : Block) : (b.cleared).txerrs = 0 := rfl
@[simp] theorem Block.cleared_tmoSizeAck (b : Block) : (b.cleared).tmoSizeAck = b.tmoSizeAck := rfl
@[simp] theorem Block.cleared_tmoSizeOk (b : Block) : (b.cleared).tmoSizeOk = b.tmoSizeOk := rfl
@[simp] theorem Block.cleared_tmoChunk (b : Block) : (b.cleared).tmoChunk = b.tmoChunk := rfl
@[simp] theorem Block.cleared_tmoImageOk (b : Block) : (b.cleared).tmoImageOk = b.tmoImageOk := rfl
@[simp] theorem Block.cleared_irqEn (b : Block) : (b.cleared).irqEn = b.irqEn := rfl
@[simp] theorem Block.cleared_irqPend (b : Block) : (b.cleared).irqPend = b.irqPend := rfl
@[simp] theorem Block.cleared_errcode (b : Block) : (b.cleared).errcode = b.errcode := rfl

@[simp] theorem Block.pushTarget_arg (x : Byte) (b : Block) : (b.pushTarget x).arg = b.arg := rfl
@[simp] theorem Block.pushTarget_phase (x : Byte) (b : Block) : (b.pushTarget x).phase = b.phase := rfl
@[simp] theorem Block.pushTarget_cause (x : Byte) (b : Block) : (b.pushTarget x).cause = b.cause := rfl
@[simp] theorem Block.pushTarget_crcReg (x : Byte) (b : Block) : (b.pushTarget x).crcReg = b.crcReg := rfl
@[simp] theorem Block.pushTarget_tgt (x : Byte) (b : Block) : (b.pushTarget x).tgt = b.tgt.setIfInBounds b.tlen.toNat x := rfl
@[simp] theorem Block.pushTarget_tlen (x : Byte) (b : Block) : (b.pushTarget x).tlen = b.tlen + 1 := rfl
@[simp] theorem Block.pushTarget_cur (x : Byte) (b : Block) : (b.pushTarget x).cur = 0 := rfl
@[simp] theorem Block.pushTarget_smode (x : Byte) (b : Block) : (b.pushTarget x).smode = b.smode := rfl
@[simp] theorem Block.pushTarget_budget (x : Byte) (b : Block) : (b.pushTarget x).budget = b.budget := rfl
@[simp] theorem Block.pushTarget_sres (x : Byte) (b : Block) : (b.pushTarget x).sres = .none := rfl
@[simp] theorem Block.pushTarget_len (x : Byte) (b : Block) : (b.pushTarget x).len = b.len := rfl
@[simp] theorem Block.pushTarget_idx (x : Byte) (b : Block) : (b.pushTarget x).idx = b.idx := rfl
@[simp] theorem Block.pushTarget_off (x : Byte) (b : Block) : (b.pushTarget x).off = b.off := rfl
@[simp] theorem Block.pushTarget_held (x : Byte) (b : Block) : (b.pushTarget x).held = b.held := rfl
@[simp] theorem Block.pushTarget_rxdata (x : Byte) (b : Block) : (b.pushTarget x).rxdata = b.rxdata := rfl
@[simp] theorem Block.pushTarget_acc (x : Byte) (b : Block) : (b.pushTarget x).acc = b.acc := rfl
@[simp] theorem Block.pushTarget_snap (x : Byte) (b : Block) : (b.pushTarget x).snap = b.snap := rfl
@[simp] theorem Block.pushTarget_expcrc (x : Byte) (b : Block) : (b.pushTarget x).expcrc = b.expcrc := rfl
@[simp] theorem Block.pushTarget_retries (x : Byte) (b : Block) : (b.pushTarget x).retries = b.retries := rfl
@[simp] theorem Block.pushTarget_txerrs (x : Byte) (b : Block) : (b.pushTarget x).txerrs = b.txerrs := rfl
@[simp] theorem Block.pushTarget_tmoSizeAck (x : Byte) (b : Block) : (b.pushTarget x).tmoSizeAck = b.tmoSizeAck := rfl
@[simp] theorem Block.pushTarget_tmoSizeOk (x : Byte) (b : Block) : (b.pushTarget x).tmoSizeOk = b.tmoSizeOk := rfl
@[simp] theorem Block.pushTarget_tmoChunk (x : Byte) (b : Block) : (b.pushTarget x).tmoChunk = b.tmoChunk := rfl
@[simp] theorem Block.pushTarget_tmoImageOk (x : Byte) (b : Block) : (b.pushTarget x).tmoImageOk = b.tmoImageOk := rfl
@[simp] theorem Block.pushTarget_irqEn (x : Byte) (b : Block) : (b.pushTarget x).irqEn = b.irqEn := rfl
@[simp] theorem Block.pushTarget_irqPend (x : Byte) (b : Block) : (b.pushTarget x).irqPend = b.irqPend := rfl
@[simp] theorem Block.pushTarget_errcode (x : Byte) (b : Block) : (b.pushTarget x).errcode = b.errcode := rfl

@[simp] theorem Block.takeSizeByte_arg (x : Byte) (b : Block) : (b.takeSizeByte x).arg = b.arg := rfl
@[simp] theorem Block.takeSizeByte_phase (x : Byte) (b : Block) : (b.takeSizeByte x).phase = b.phase := rfl
@[simp] theorem Block.takeSizeByte_cause (x : Byte) (b : Block) : (b.takeSizeByte x).cause = b.cause := rfl
@[simp] theorem Block.takeSizeByte_crcReg (x : Byte) (b : Block) : (b.takeSizeByte x).crcReg = b.crcReg := rfl
@[simp] theorem Block.takeSizeByte_tgt (x : Byte) (b : Block) : (b.takeSizeByte x).tgt = b.tgt := rfl
@[simp] theorem Block.takeSizeByte_tlen (x : Byte) (b : Block) : (b.takeSizeByte x).tlen = b.tlen := rfl
@[simp] theorem Block.takeSizeByte_cur (x : Byte) (b : Block) : (b.takeSizeByte x).cur = b.cur := rfl
@[simp] theorem Block.takeSizeByte_smode (x : Byte) (b : Block) : (b.takeSizeByte x).smode = b.smode := rfl
@[simp] theorem Block.takeSizeByte_budget (x : Byte) (b : Block) : (b.takeSizeByte x).budget = b.budget := rfl
@[simp] theorem Block.takeSizeByte_sres (x : Byte) (b : Block) : (b.takeSizeByte x).sres = b.sres := rfl
@[simp] theorem Block.takeSizeByte_len (x : Byte) (b : Block) : (b.takeSizeByte x).len = (b.len <<< 8) ||| x.setWidth 64 := rfl
@[simp] theorem Block.takeSizeByte_idx (x : Byte) (b : Block) : (b.takeSizeByte x).idx = b.idx := rfl
@[simp] theorem Block.takeSizeByte_off (x : Byte) (b : Block) : (b.takeSizeByte x).off = b.off + 1 := rfl
@[simp] theorem Block.takeSizeByte_held (x : Byte) (b : Block) : (b.takeSizeByte x).held = b.held := rfl
@[simp] theorem Block.takeSizeByte_rxdata (x : Byte) (b : Block) : (b.takeSizeByte x).rxdata = b.rxdata := rfl
@[simp] theorem Block.takeSizeByte_acc (x : Byte) (b : Block) : (b.takeSizeByte x).acc = crcUpd b.acc x := rfl
@[simp] theorem Block.takeSizeByte_snap (x : Byte) (b : Block) : (b.takeSizeByte x).snap = b.snap := rfl
@[simp] theorem Block.takeSizeByte_expcrc (x : Byte) (b : Block) : (b.takeSizeByte x).expcrc = b.expcrc := rfl
@[simp] theorem Block.takeSizeByte_retries (x : Byte) (b : Block) : (b.takeSizeByte x).retries = b.retries := rfl
@[simp] theorem Block.takeSizeByte_txerrs (x : Byte) (b : Block) : (b.takeSizeByte x).txerrs = b.txerrs := rfl
@[simp] theorem Block.takeSizeByte_tmoSizeAck (x : Byte) (b : Block) : (b.takeSizeByte x).tmoSizeAck = b.tmoSizeAck := rfl
@[simp] theorem Block.takeSizeByte_tmoSizeOk (x : Byte) (b : Block) : (b.takeSizeByte x).tmoSizeOk = b.tmoSizeOk := rfl
@[simp] theorem Block.takeSizeByte_tmoChunk (x : Byte) (b : Block) : (b.takeSizeByte x).tmoChunk = b.tmoChunk := rfl
@[simp] theorem Block.takeSizeByte_tmoImageOk (x : Byte) (b : Block) : (b.takeSizeByte x).tmoImageOk = b.tmoImageOk := rfl
@[simp] theorem Block.takeSizeByte_irqEn (x : Byte) (b : Block) : (b.takeSizeByte x).irqEn = b.irqEn := rfl
@[simp] theorem Block.takeSizeByte_irqPend (x : Byte) (b : Block) : (b.takeSizeByte x).irqPend = b.irqPend := rfl
@[simp] theorem Block.takeSizeByte_errcode (x : Byte) (b : Block) : (b.takeSizeByte x).errcode = b.errcode := rfl

@[simp] theorem Block.restartSize_arg (b : Block) : (b.restartSize).arg = b.arg := rfl
@[simp] theorem Block.restartSize_phase (b : Block) : (b.restartSize).phase = b.phase := rfl
@[simp] theorem Block.restartSize_cause (b : Block) : (b.restartSize).cause = b.cause := rfl
@[simp] theorem Block.restartSize_crcReg (b : Block) : (b.restartSize).crcReg = b.crcReg := rfl
@[simp] theorem Block.restartSize_tgt (b : Block) : (b.restartSize).tgt = b.tgt := rfl
@[simp] theorem Block.restartSize_tlen (b : Block) : (b.restartSize).tlen = b.tlen := rfl
@[simp] theorem Block.restartSize_cur (b : Block) : (b.restartSize).cur = b.cur := rfl
@[simp] theorem Block.restartSize_smode (b : Block) : (b.restartSize).smode = b.smode := rfl
@[simp] theorem Block.restartSize_budget (b : Block) : (b.restartSize).budget = b.budget := rfl
@[simp] theorem Block.restartSize_sres (b : Block) : (b.restartSize).sres = b.sres := rfl
@[simp] theorem Block.restartSize_len (b : Block) : (b.restartSize).len = 0 := rfl
@[simp] theorem Block.restartSize_idx (b : Block) : (b.restartSize).idx = b.idx := rfl
@[simp] theorem Block.restartSize_off (b : Block) : (b.restartSize).off = 0 := rfl
@[simp] theorem Block.restartSize_held (b : Block) : (b.restartSize).held = b.held := rfl
@[simp] theorem Block.restartSize_rxdata (b : Block) : (b.restartSize).rxdata = b.rxdata := rfl
@[simp] theorem Block.restartSize_acc (b : Block) : (b.restartSize).acc = b.snap := rfl
@[simp] theorem Block.restartSize_snap (b : Block) : (b.restartSize).snap = b.snap := rfl
@[simp] theorem Block.restartSize_expcrc (b : Block) : (b.restartSize).expcrc = b.expcrc := rfl
@[simp] theorem Block.restartSize_retries (b : Block) : (b.restartSize).retries = b.retries := rfl
@[simp] theorem Block.restartSize_txerrs (b : Block) : (b.restartSize).txerrs = b.txerrs := rfl
@[simp] theorem Block.restartSize_tmoSizeAck (b : Block) : (b.restartSize).tmoSizeAck = b.tmoSizeAck := rfl
@[simp] theorem Block.restartSize_tmoSizeOk (b : Block) : (b.restartSize).tmoSizeOk = b.tmoSizeOk := rfl
@[simp] theorem Block.restartSize_tmoChunk (b : Block) : (b.restartSize).tmoChunk = b.tmoChunk := rfl
@[simp] theorem Block.restartSize_tmoImageOk (b : Block) : (b.restartSize).tmoImageOk = b.tmoImageOk := rfl
@[simp] theorem Block.restartSize_irqEn (b : Block) : (b.restartSize).irqEn = b.irqEn := rfl
@[simp] theorem Block.restartSize_irqPend (b : Block) : (b.restartSize).irqPend = b.irqPend ||| Irq.restart.mask := rfl
@[simp] theorem Block.restartSize_errcode (b : Block) : (b.restartSize).errcode = b.errcode := rfl

@[simp] theorem Block.holdByte_arg (x : Byte) (b : Block) : (b.holdByte x).arg = b.arg := rfl
@[simp] theorem Block.holdByte_phase (x : Byte) (b : Block) : (b.holdByte x).phase = b.phase := rfl
@[simp] theorem Block.holdByte_cause (x : Byte) (b : Block) : (b.holdByte x).cause = b.cause := rfl
@[simp] theorem Block.holdByte_crcReg (x : Byte) (b : Block) : (b.holdByte x).crcReg = b.crcReg := rfl
@[simp] theorem Block.holdByte_tgt (x : Byte) (b : Block) : (b.holdByte x).tgt = b.tgt := rfl
@[simp] theorem Block.holdByte_tlen (x : Byte) (b : Block) : (b.holdByte x).tlen = b.tlen := rfl
@[simp] theorem Block.holdByte_cur (x : Byte) (b : Block) : (b.holdByte x).cur = b.cur := rfl
@[simp] theorem Block.holdByte_smode (x : Byte) (b : Block) : (b.holdByte x).smode = b.smode := rfl
@[simp] theorem Block.holdByte_budget (x : Byte) (b : Block) : (b.holdByte x).budget = b.budget := rfl
@[simp] theorem Block.holdByte_sres (x : Byte) (b : Block) : (b.holdByte x).sres = b.sres := rfl
@[simp] theorem Block.holdByte_len (x : Byte) (b : Block) : (b.holdByte x).len = b.len := rfl
@[simp] theorem Block.holdByte_idx (x : Byte) (b : Block) : (b.holdByte x).idx = b.idx := rfl
@[simp] theorem Block.holdByte_off (x : Byte) (b : Block) : (b.holdByte x).off = b.off := rfl
@[simp] theorem Block.holdByte_held (x : Byte) (b : Block) : (b.holdByte x).held = true := rfl
@[simp] theorem Block.holdByte_rxdata (x : Byte) (b : Block) : (b.holdByte x).rxdata = x := rfl
@[simp] theorem Block.holdByte_acc (x : Byte) (b : Block) : (b.holdByte x).acc = crcUpd b.acc x := rfl
@[simp] theorem Block.holdByte_snap (x : Byte) (b : Block) : (b.holdByte x).snap = b.snap := rfl
@[simp] theorem Block.holdByte_expcrc (x : Byte) (b : Block) : (b.holdByte x).expcrc = b.expcrc := rfl
@[simp] theorem Block.holdByte_retries (x : Byte) (b : Block) : (b.holdByte x).retries = b.retries := rfl
@[simp] theorem Block.holdByte_txerrs (x : Byte) (b : Block) : (b.holdByte x).txerrs = b.txerrs := rfl
@[simp] theorem Block.holdByte_tmoSizeAck (x : Byte) (b : Block) : (b.holdByte x).tmoSizeAck = b.tmoSizeAck := rfl
@[simp] theorem Block.holdByte_tmoSizeOk (x : Byte) (b : Block) : (b.holdByte x).tmoSizeOk = b.tmoSizeOk := rfl
@[simp] theorem Block.holdByte_tmoChunk (x : Byte) (b : Block) : (b.holdByte x).tmoChunk = b.tmoChunk := rfl
@[simp] theorem Block.holdByte_tmoImageOk (x : Byte) (b : Block) : (b.holdByte x).tmoImageOk = b.tmoImageOk := rfl
@[simp] theorem Block.holdByte_irqEn (x : Byte) (b : Block) : (b.holdByte x).irqEn = b.irqEn := rfl
@[simp] theorem Block.holdByte_irqPend (x : Byte) (b : Block) : (b.holdByte x).irqPend = b.irqPend ||| Irq.rxAvail.mask := rfl
@[simp] theorem Block.holdByte_errcode (x : Byte) (b : Block) : (b.holdByte x).errcode = b.errcode := rfl

@[simp] theorem Block.restartChunk_arg (b : Block) : (b.restartChunk).arg = b.arg := rfl
@[simp] theorem Block.restartChunk_phase (b : Block) : (b.restartChunk).phase = b.phase := rfl
@[simp] theorem Block.restartChunk_cause (b : Block) : (b.restartChunk).cause = b.cause := rfl
@[simp] theorem Block.restartChunk_crcReg (b : Block) : (b.restartChunk).crcReg = b.crcReg := rfl
@[simp] theorem Block.restartChunk_tgt (b : Block) : (b.restartChunk).tgt = b.tgt := rfl
@[simp] theorem Block.restartChunk_tlen (b : Block) : (b.restartChunk).tlen = b.tlen := rfl
@[simp] theorem Block.restartChunk_cur (b : Block) : (b.restartChunk).cur = b.cur := rfl
@[simp] theorem Block.restartChunk_smode (b : Block) : (b.restartChunk).smode = b.smode := rfl
@[simp] theorem Block.restartChunk_budget (b : Block) : (b.restartChunk).budget = b.budget := rfl
@[simp] theorem Block.restartChunk_sres (b : Block) : (b.restartChunk).sres = b.sres := rfl
@[simp] theorem Block.restartChunk_len (b : Block) : (b.restartChunk).len = b.len := rfl
@[simp] theorem Block.restartChunk_idx (b : Block) : (b.restartChunk).idx = b.idx := rfl
@[simp] theorem Block.restartChunk_off (b : Block) : (b.restartChunk).off = chunkStart b.idx := rfl
@[simp] theorem Block.restartChunk_held (b : Block) : (b.restartChunk).held = b.held := rfl
@[simp] theorem Block.restartChunk_rxdata (b : Block) : (b.restartChunk).rxdata = b.rxdata := rfl
@[simp] theorem Block.restartChunk_acc (b : Block) : (b.restartChunk).acc = b.snap := rfl
@[simp] theorem Block.restartChunk_snap (b : Block) : (b.restartChunk).snap = b.snap := rfl
@[simp] theorem Block.restartChunk_expcrc (b : Block) : (b.restartChunk).expcrc = b.expcrc := rfl
@[simp] theorem Block.restartChunk_retries (b : Block) : (b.restartChunk).retries = b.retries := rfl
@[simp] theorem Block.restartChunk_txerrs (b : Block) : (b.restartChunk).txerrs = b.txerrs := rfl
@[simp] theorem Block.restartChunk_tmoSizeAck (b : Block) : (b.restartChunk).tmoSizeAck = b.tmoSizeAck := rfl
@[simp] theorem Block.restartChunk_tmoSizeOk (b : Block) : (b.restartChunk).tmoSizeOk = b.tmoSizeOk := rfl
@[simp] theorem Block.restartChunk_tmoChunk (b : Block) : (b.restartChunk).tmoChunk = b.tmoChunk := rfl
@[simp] theorem Block.restartChunk_tmoImageOk (b : Block) : (b.restartChunk).tmoImageOk = b.tmoImageOk := rfl
@[simp] theorem Block.restartChunk_irqEn (b : Block) : (b.restartChunk).irqEn = b.irqEn := rfl
@[simp] theorem Block.restartChunk_irqPend (b : Block) : (b.restartChunk).irqPend = b.irqPend ||| Irq.restart.mask := rfl
@[simp] theorem Block.restartChunk_errcode (b : Block) : (b.restartChunk).errcode = b.errcode := rfl

@[simp] theorem State.mapBlk_par (f : Block → Block) (s : State) : (s.mapBlk f).par = s.par := rfl
@[simp] theorem State.mapBlk_blk (f : Block → Block) (s : State) : (s.mapBlk f).blk = f s.blk := rfl
@[simp] theorem State.mapBlk_chan (f : Block → Block) (s : State) : (s.mapBlk f).chan = s.chan := rfl
@[simp] theorem State.mapBlk_script (f : Block → Block) (s : State) : (s.mapBlk f).script = s.script := rfl
@[simp] theorem State.mapBlk_reads (f : Block → Block) (s : State) : (s.mapBlk f).reads = s.reads := rfl

@[simp] theorem State.cmdError_par (c : ErrCode) (s : State) : (s.cmdError c).par = s.par := rfl
@[simp] theorem State.cmdError_blk (c : ErrCode) (s : State) : (s.cmdError c).blk = s.blk.cmdError c := rfl
@[simp] theorem State.cmdError_chan (c : ErrCode) (s : State) : (s.cmdError c).chan = s.chan := rfl
@[simp] theorem State.cmdError_script (c : ErrCode) (s : State) : (s.cmdError c).script = s.script := rfl
@[simp] theorem State.cmdError_reads (c : ErrCode) (s : State) : (s.cmdError c).reads = s.reads := rfl

@[simp] theorem State.emit_par (bs : List Byte) (s : State) : (s.emit bs).par = s.par := rfl
@[simp] theorem State.emit_blk (bs : List Byte) (s : State) : (s.emit bs).blk = s.blk := rfl
@[simp] theorem State.emit_chan (bs : List Byte) (s : State) : (s.emit bs).chan = s.chan.send bs := rfl
@[simp] theorem State.emit_script (bs : List Byte) (s : State) : (s.emit bs).script = s.script := rfl
@[simp] theorem State.emit_reads (bs : List Byte) (s : State) : (s.emit bs).reads = s.reads := rfl

@[simp] theorem State.dropRx_par (s : State) : (s.dropRx).par = s.par := rfl
@[simp] theorem State.dropRx_blk (s : State) : (s.dropRx).blk = s.blk := rfl
@[simp] theorem State.dropRx_chan (s : State) : (s.dropRx).chan = { s.chan with rxq := s.chan.rxq.tail } := rfl
@[simp] theorem State.dropRx_script (s : State) : (s.dropRx).script = s.script := rfl
@[simp] theorem State.dropRx_reads (s : State) : (s.dropRx).reads = s.reads := rfl

@[simp] theorem State.resetStep_par (s : State) : (s.resetStep).par = s.par := rfl
@[simp] theorem State.resetStep_blk (s : State) : (s.resetStep).blk = Block.reset s.par s.chan.fresh := rfl
@[simp] theorem State.resetStep_chan (s : State) : (s.resetStep).chan = { s.chan with fresh := s.chan.fresh + 1 } := rfl
@[simp] theorem State.resetStep_script (s : State) : (s.resetStep).script = s.script := rfl
@[simp] theorem State.resetStep_reads (s : State) : (s.resetStep).reads = s.reads := rfl

@[simp] theorem State.withCommand_par (w : Word) (s : State) : (s.withCommand w).par = s.par := rfl
@[simp] theorem State.withCommand_blk (w : Word) (s : State) : (s.withCommand w).blk = s.blk := rfl
@[simp] theorem State.withCommand_chan (w : Word) (s : State) : (s.withCommand w).chan = s.chan := rfl
@[simp] theorem State.withCommand_script (w : Word) (s : State) : (s.withCommand w).script = Stimulus.commandOf w :: s.script := rfl
@[simp] theorem State.withCommand_reads (w : Word) (s : State) : (s.withCommand w).reads = s.reads := rfl

@[simp] theorem State.mapBlk_mapBlk (f g : Block → Block) (s : State) :
    (s.mapBlk f).mapBlk g = s.mapBlk fun b => g (f b) := rfl

@[simp] theorem Chan.send_rxq (bs : List Byte) (c : Chan) : (c.send bs).rxq = c.rxq := rfl
@[simp] theorem Chan.send_tx (bs : List Byte) (c : Chan) : (c.send bs).tx = c.tx ++ sentBytes bs c.draw := rfl
@[simp] theorem Chan.send_draws (bs : List Byte) (c : Chan) : (c.send bs).draws = c.draws.tail := rfl
@[simp] theorem Chan.send_fresh (bs : List Byte) (c : Chan) : (c.send bs).fresh = c.fresh + 1 := rfl

end Sys2Proof.Machine
end

