-- ==== Sys2Proof/Laws/Emit.lean ====
section
/-! SUPPORT. TX transactions: what an emission changes, once for all its callers. -/

namespace Sys2Proof.Machine

theorem emitCounted_of_ok {s : State} (h : s.chan.draw = .ok) (bs : List Byte) : s.emitCounted bs = s.emit bs := by
  simp [State.emitCounted, State.txResult, h, drawResult]

theorem emitCounted_of_err {s : State} {k : Nat} (h : s.chan.draw = .err k) (bs : List Byte) :
    s.emitCounted bs = (s.emit bs).mapBlk Block.countTxErr := by
  simp [State.emitCounted, State.txResult, h, drawResult]

/-- A counted emission changes the channel's TX side and, in the block, at most TXERRS (R216). -/
theorem emitCounted_eq (bs : List Byte) (s : State) :
    s.emitCounted bs =
      { s with
        chan := s.chan.send bs
        blk := { s.blk with txerrs := match s.txResult with | .ok => s.blk.txerrs | .err => satInc32 s.blk.txerrs } } := by
  unfold State.emitCounted
  cases s.txResult <;> rfl

@[simp] theorem emitCounted_par (bs : List Byte) (s : State) : (s.emitCounted bs).par = s.par := by
  rw [emitCounted_eq]

@[simp] theorem emitCounted_script (bs : List Byte) (s : State) : (s.emitCounted bs).script = s.script := by
  rw [emitCounted_eq]

@[simp] theorem emitCounted_reads (bs : List Byte) (s : State) : (s.emitCounted bs).reads = s.reads := by
  rw [emitCounted_eq]

@[simp] theorem emitCounted_chan (bs : List Byte) (s : State) : (s.emitCounted bs).chan = s.chan.send bs := by
  rw [emitCounted_eq]

@[simp] theorem emitCounted_blk_arg (bs : List Byte) (s : State) : (s.emitCounted bs).blk.arg = s.blk.arg := by
  rw [emitCounted_eq]

@[simp] theorem emitCounted_blk_phase (bs : List Byte) (s : State) : (s.emitCounted bs).blk.phase = s.blk.phase := by
  rw [emitCounted_eq]

@[simp] theorem emitCounted_blk_cause (bs : List Byte) (s : State) : (s.emitCounted bs).blk.cause = s.blk.cause := by
  rw [emitCounted_eq]

@[simp] theorem emitCounted_blk_crcReg (bs : List Byte) (s : State) : (s.emitCounted bs).blk.crcReg = s.blk.crcReg := by
  rw [emitCounted_eq]

@[simp] theorem emitCounted_blk_tgt (bs : List Byte) (s : State) : (s.emitCounted bs).blk.tgt = s.blk.tgt := by
  rw [emitCounted_eq]

@[simp] theorem emitCounted_blk_tlen (bs : List Byte) (s : State) : (s.emitCounted bs).blk.tlen = s.blk.tlen := by
  rw [emitCounted_eq]

@[simp] theorem emitCounted_blk_cur (bs : List Byte) (s : State) : (s.emitCounted bs).blk.cur = s.blk.cur := by
  rw [emitCounted_eq]

@[simp] theorem emitCounted_blk_smode (bs : List Byte) (s : State) : (s.emitCounted bs).blk.smode = s.blk.smode := by
  rw [emitCounted_eq]

@[simp] theorem emitCounted_blk_budget (bs : List Byte) (s : State) : (s.emitCounted bs).blk.budget = s.blk.budget := by
  rw [emitCounted_eq]

@[simp] theorem emitCounted_blk_sres (bs : List Byte) (s : State) : (s.emitCounted bs).blk.sres = s.blk.sres := by
  rw [emitCounted_eq]

@[simp] theorem emitCounted_blk_len (bs : List Byte) (s : State) : (s.emitCounted bs).blk.len = s.blk.len := by
  rw [emitCounted_eq]

@[simp] theorem emitCounted_blk_idx (bs : List Byte) (s : State) : (s.emitCounted bs).blk.idx = s.blk.idx := by
  rw [emitCounted_eq]

@[simp] theorem emitCounted_blk_off (bs : List Byte) (s : State) : (s.emitCounted bs).blk.off = s.blk.off := by
  rw [emitCounted_eq]

@[simp] theorem emitCounted_blk_held (bs : List Byte) (s : State) : (s.emitCounted bs).blk.held = s.blk.held := by
  rw [emitCounted_eq]

@[simp] theorem emitCounted_blk_rxdata (bs : List Byte) (s : State) : (s.emitCounted bs).blk.rxdata = s.blk.rxdata := by
  rw [emitCounted_eq]

@[simp] theorem emitCounted_blk_acc (bs : List Byte) (s : State) : (s.emitCounted bs).blk.acc = s.blk.acc := by
  rw [emitCounted_eq]

@[simp] theorem emitCounted_blk_snap (bs : List Byte) (s : State) : (s.emitCounted bs).blk.snap = s.blk.snap := by
  rw [emitCounted_eq]

@[simp] theorem emitCounted_blk_expcrc (bs : List Byte) (s : State) : (s.emitCounted bs).blk.expcrc = s.blk.expcrc := by
  rw [emitCounted_eq]

@[simp] theorem emitCounted_blk_retries (bs : List Byte) (s : State) : (s.emitCounted bs).blk.retries = s.blk.retries := by
  rw [emitCounted_eq]

@[simp] theorem emitCounted_blk_tmoSizeAck (bs : List Byte) (s : State) : (s.emitCounted bs).blk.tmoSizeAck = s.blk.tmoSizeAck := by
  rw [emitCounted_eq]

@[simp] theorem emitCounted_blk_tmoSizeOk (bs : List Byte) (s : State) : (s.emitCounted bs).blk.tmoSizeOk = s.blk.tmoSizeOk := by
  rw [emitCounted_eq]

@[simp] theorem emitCounted_blk_tmoChunk (bs : List Byte) (s : State) : (s.emitCounted bs).blk.tmoChunk = s.blk.tmoChunk := by
  rw [emitCounted_eq]

@[simp] theorem emitCounted_blk_tmoImageOk (bs : List Byte) (s : State) : (s.emitCounted bs).blk.tmoImageOk = s.blk.tmoImageOk := by
  rw [emitCounted_eq]

@[simp] theorem emitCounted_blk_irqEn (bs : List Byte) (s : State) : (s.emitCounted bs).blk.irqEn = s.blk.irqEn := by
  rw [emitCounted_eq]

@[simp] theorem emitCounted_blk_irqPend (bs : List Byte) (s : State) : (s.emitCounted bs).blk.irqPend = s.blk.irqPend := by
  rw [emitCounted_eq]

@[simp] theorem emitCounted_blk_errcode (bs : List Byte) (s : State) : (s.emitCounted bs).blk.errcode = s.blk.errcode := by
  rw [emitCounted_eq]

end Sys2Proof.Machine
end

