-- ==== Sys2Proof/Laws/Cases.lean ====
section
/-! SUPPORT. The branches of every operation that chooses, one equation a branch, under a condition on the state it is
applied to. A later proof cites these and never unfolds a choice. -/

namespace Sys2Proof.Machine

/-! ## TX transactions -/

/-- A counted emission in closed form (R48, R62). -/
theorem emitCounted_errCount (bs : List Byte) (s : State) :
    s.emitCounted bs =
      { s with chan := s.chan.send bs, blk := { s.blk with txerrs := errCount s.chan.draw s.blk.txerrs } } := by
  cases h : s.chan.draw with
  | ok => rw [emitCounted_of_ok h]; rfl
  | err k => rw [emitCounted_of_err h]; rfl

theorem sendSize_of_ok {s : State} (h : s.chan.draw = .ok) :
    s.sendSize =
      ((s.mapBlk fun b => { b with phase := .sSendSize }).emit (be8 s.blk.len)).mapBlk Block.enterSizeAck := by
  simp [State.sendSize, State.txResult, h, drawResult]

theorem sendSize_of_err {s : State} {k : Nat} (h : s.chan.draw = .err k) :
    s.sendSize = ((s.mapBlk fun b => { b with phase := .sSendSize }).emit (be8 s.blk.len)).mapBlk Block.txAbort := by
  simp [State.sendSize, State.txResult, h, drawResult]

theorem sendPayload_of_ok {s : State} (h : s.chan.draw = .ok) (x : Byte) :
    s.sendPayload x = (s.emit [x]).mapBlk (Block.payloadSent x) := by
  simp [State.sendPayload, State.txResult, h, drawResult]

theorem sendPayload_of_err {s : State} {k : Nat} (h : s.chan.draw = .err k) (x : Byte) :
    s.sendPayload x = (s.emit [x]).mapBlk Block.txAbort := by
  simp [State.sendPayload, State.txResult, h, drawResult]

/-! ## The end of a scan -/

theorem scanEnd_of_not_sender {s : State} (h : s.blk.phase.role ≠ .sender) (r : ScanEnd) :
    s.scanEnd r = s.mapBlk (Block.closeScan r) := if_neg h

theorem scanEnd_of_sender {s : State} (h : s.blk.phase.role = .sender) (r : ScanEnd) :
    s.scanEnd r = (s.mapBlk (Block.closeScan r)).onScanEnd r := if_pos h

theorem scanEnd_matched_awaitReady {s : State} (h : s.blk.phase = .sAwaitReady) :
    s.scanEnd .matched = (s.mapBlk (Block.closeScan .matched)).sendSize := by
  rw [scanEnd_of_sender (by rw [h]; rfl)]
  simp [State.onScanEnd, State.onMatch, h]

theorem scanEnd_matched_awaitSizeAck {s : State} (h : s.blk.phase = .sAwaitSizeAck) :
    s.scanEnd .matched = (s.mapBlk (Block.closeScan .matched)).mapBlk Block.enterSizeOk := by
  rw [scanEnd_of_sender (by rw [h]; rfl)]
  simp [State.onScanEnd, State.onMatch, h]

theorem scanEnd_matched_awaitSizeOk {s : State} (h : s.blk.phase = .sAwaitSizeOk) :
    s.scanEnd .matched = (s.mapBlk (Block.closeScan .matched)).mapBlk Block.enterImage := by
  rw [scanEnd_of_sender (by rw [h]; rfl)]
  simp [State.onScanEnd, State.onMatch, h]

theorem scanEnd_matched_awaitChunkAck {s : State} (h : s.blk.phase = .sAwaitChunkAck) :
    s.scanEnd .matched = (s.mapBlk (Block.closeScan .matched)).mapBlk Block.chunkAcked := by
  rw [scanEnd_of_sender (by rw [h]; rfl)]
  simp [State.onScanEnd, State.onMatch, h]

theorem scanEnd_matched_awaitImageOk {s : State} (h : s.blk.phase = .sAwaitImageOk) :
    s.scanEnd .matched = (s.mapBlk (Block.closeScan .matched)).mapBlk Block.enterDone := by
  rw [scanEnd_of_sender (by rw [h]; rfl)]
  simp [State.onScanEnd, State.onMatch, h]

/-- A phase that waits for no scan has no reaction (log 10). -/
theorem scanEnd_of_no_wait {s : State} (h : s.blk.phase.scanWait = false) (r : ScanEnd) :
    s.scanEnd r = s.mapBlk (Block.closeScan r) := by
  by_cases hr : s.blk.phase.role = .sender
  · rw [scanEnd_of_sender hr]
    cases r <;> revert h hr <;> cases hp : s.blk.phase <;> intro h hr <;>
      simp_all [State.onScanEnd, State.onMatch, Block.onTimeout, State.mapBlk, Phase.scanWait]
  · exact scanEnd_of_not_sender hr r

/-- A TIMEOUT changes the block alone (R166). -/
theorem scanEnd_timedOut_of_sender {s : State} (h : s.blk.phase.role = .sender) :
    s.scanEnd .timedOut = (s.mapBlk (Block.closeScan .timedOut)).mapBlk Block.onTimeout := scanEnd_of_sender h _

theorem onTimeout_sizeAck {b : Block} (h : b.phase = .sAwaitSizeAck) : b.onTimeout = b.abort .sizeAckTimeout := by
  simp [Block.onTimeout, h]

theorem onTimeout_sizeOk {b : Block} (h : b.phase = .sAwaitSizeOk) : b.onTimeout = b.abort .sizeOkTimeout := by
  simp [Block.onTimeout, h]

theorem onTimeout_chunkAck {b : Block} (h : b.phase = .sAwaitChunkAck) : b.onTimeout = b.retransmit := by
  simp [Block.onTimeout, h]

theorem onTimeout_imageOk {b : Block} (h : b.phase = .sAwaitImageOk) : b.onTimeout = b.abort .imageOkTimeout := by
  simp [Block.onTimeout, h]

theorem onTimeout_awaitReady {b : Block} (h : b.phase = .sAwaitReady) : b.onTimeout = b := by
  simp [Block.onTimeout, h]

/-! ## The sender's chunks -/

theorem enterImage_of_empty {b : Block} (h : nchunks b.len = 0) : b.enterImage = b.beginImage.enterImageOk := if_pos h

theorem enterImage_of_chunks {b : Block} (h : nchunks b.len ≠ 0) : b.enterImage = b.beginImage.enterSendChunk :=
  if_neg h

theorem chunkAcked_of_more {b : Block} (h : b.idx + 1 < nchunks b.len) :
    b.chunkAcked = b.commitChunk.nextChunk.enterSendChunk := if_pos h

theorem chunkAcked_of_last {b : Block} (h : ¬ b.idx + 1 < nchunks b.len) :
    b.chunkAcked = b.commitChunk.enterImageOk := if_neg h

theorem payloadSent_of_last {b : Block} (h : b.off + 1 = chunkEnd b.len b.idx) (x : Byte) :
    b.payloadSent x = (b.countPayload x).enterChunkAck := if_pos h

theorem payloadSent_of_more {b : Block} (h : b.off + 1 ≠ chunkEnd b.len b.idx) (x : Byte) :
    b.payloadSent x = b.countPayload x := if_neg h

/-! ## The receiver -/

theorem allocated_of_empty {s : State} (h : s.blk.len = 0) :
    s.allocated = (s.mapBlk fun b => { b with phase := .rReceiveImage }).confirmImage := if_pos h

theorem allocated_of_chunks {s : State} (h : s.blk.len ≠ 0) :
    s.allocated = s.mapBlk fun b => { b with phase := .rReceiveImage } := if_neg h

theorem takeByte_of_more {s : State} (h : s.blk.off + 1 ≠ chunkEnd s.blk.len s.blk.idx) :
    s.takeByte = s.mapBlk Block.release := if_neg h

theorem takeByte_of_filled {s : State} (h : s.blk.off + 1 = chunkEnd s.blk.len s.blk.idx) :
    s.takeByte = (s.mapBlk Block.release).chunkFilled := if_pos h

theorem chunkFilled_of_last {s : State} (h : s.blk.off = s.blk.len) :
    s.chunkFilled = ((s.emitCounted (tok .ack s.blk.idx)).mapBlk Block.commitChunk).confirmImage := by
  simp [State.chunkFilled, h]

theorem chunkFilled_of_more {s : State} (h : s.blk.off ≠ s.blk.len) :
    s.chunkFilled = ((s.emitCounted (tok .ack s.blk.idx)).mapBlk Block.commitChunk).mapBlk Block.nextChunk := by
  simp [State.chunkFilled, h]

/-! ## The RX port -/

theorem rxEvent_of_cons {c : Chan} {e : RxElem} {q : List RxElem} (h : c.rxq = e :: q) : c.rxEvent = e.event := by
  simp [Chan.rxEvent, h]

theorem rxEvent_of_nil {c : Chan} (h : c.rxq = []) : c.rxEvent = .quiet := by
  simp [Chan.rxEvent, h]

theorem dropRx_of_cons {s : State} {e : RxElem} {q : List RxElem} (h : s.chan.rxq = e :: q) :
    s.dropRx = { s with chan := { s.chan with rxq := q } } := by
  simp [State.dropRx, h]

theorem dropRx_of_nil {s : State} (h : s.chan.rxq = []) : s.dropRx = s := by
  cases s with
  | mk p b c sc rd =>
    cases c
    simp_all [State.dropRx]

theorem onRxEvent_of_scan {s : State} (h : s.blk.smode ≠ .idle) (e : RxEvent) : s.onRxEvent e = s.scanEvent e :=
  if_pos h

theorem onRxEvent_of_size {s : State} (h : s.blk.smode = .idle) (hp : s.blk.phase = .rReceiveSize) (e : RxEvent) :
    s.onRxEvent e = s.sizeEvent e := by
  simp [State.onRxEvent, h, hp]

theorem onRxEvent_of_image {s : State} (h : s.blk.smode = .idle) (hp : s.blk.phase ≠ .rReceiveSize) (e : RxEvent) :
    s.onRxEvent e = s.imageEvent e := by
  simp [State.onRxEvent, h, hp]

theorem reading_of_scan {b : Block} (h : b.smode ≠ .idle) : b.reading = true := by
  simp [Block.reading, h]

theorem reading_of_size {b : Block} (h : b.phase = .rReceiveSize) : b.reading = true := by
  simp [Block.reading, h]

theorem reading_of_image {b : Block} (h : b.phase = .rReceiveImage) (hh : b.held = false) : b.reading = true := by
  simp [Block.reading, h, hh]

/-- In a state with no running scan the block reads in two phases only (R63). -/
theorem not_reading {b : Block} (h : b.smode = .idle) (hs : b.phase ≠ .rReceiveSize)
    (hi : b.phase = .rReceiveImage → b.held = true) : b.reading = false := by
  simp only [Block.reading, h]
  cases hp : b.phase <;> simp_all

theorem nextCursor_of_match {b : Block} {x : Byte} (h : b.target[b.cur.toNat]? = some x) :
    b.nextCursor x = b.cur + 1 := if_pos h

theorem nextCursor_of_mismatch {b : Block} {x : Byte} (h : b.target[b.cur.toNat]? ≠ some x) : b.nextCursor x = 0 :=
  if_neg h

theorem scanByte_of_end {s : State} {x : Byte} (h : s.blk.nextCursor x = s.blk.tlen) :
    s.scanByte x = (s.mapBlk fun b => { b with cur := b.nextCursor x }).scanEnd .matched := if_pos h

theorem scanByte_of_more {s : State} {x : Byte} (h : s.blk.nextCursor x ≠ s.blk.tlen) :
    s.scanByte x = s.mapBlk fun b => { b with cur := b.nextCursor x } := if_neg h

theorem scanUnsuccessful_of_bounded {s : State} (h : s.blk.smode = .bounded) : s.scanUnsuccessful = s.chargeBudget :=
  if_pos h

theorem scanUnsuccessful_of_unbounded {s : State} (h : s.blk.smode ≠ .bounded) : s.scanUnsuccessful = s := if_neg h

theorem chargeBudget_of_exhausted {s : State} (h : s.blk.budget.toNat ≤ s.par.quantum) :
    s.chargeBudget = (s.mapBlk fun b => { b with budget := 0 }).scanEnd .timedOut := if_pos h

theorem chargeBudget_of_more {s : State} (h : ¬ s.blk.budget.toNat ≤ s.par.quantum) :
    s.chargeBudget = s.mapBlk fun b => { b with budget := b.budget - BitVec.ofNat 32 s.par.quantum } := if_neg h

theorem sizeEvent_byte_of_last {s : State} (h : s.blk.off + 1 = 8) (x : Byte) :
    s.sizeEvent (.byte x) = (s.mapBlk (Block.takeSizeByte x)).confirmSize := if_pos h

theorem sizeEvent_byte_of_more {s : State} (h : s.blk.off + 1 ≠ 8) (x : Byte) :
    s.sizeEvent (.byte x) = s.mapBlk (Block.takeSizeByte x) := if_neg h

/-! ## Commands -/

theorem runScan_of_empty {s : State} (h : s.blk.tlen = 0) (m : ScanMode) :
    s.runScan m = (s.mapBlk fun b => { b with cur := 0, sres := .none }).scanEnd .matched := if_pos h

theorem runScan_of_target {s : State} (h : s.blk.tlen ≠ 0) (m : ScanMode) :
    s.runScan m = s.mapBlk fun b => { b with cur := 0, sres := .none, smode := m } := if_neg h

/-- When the scanner and role commands raise BUSY (R240). -/
theorem unitBusy_iff (b : Block) : b.unitBusy = true ↔ b.phase ≠ .idle ∨ b.smode ≠ .idle := by
  simp [Block.unitBusy]

theorem unitBusy_of_idle {b : Block} (hp : b.phase = .idle) (hs : b.smode = .idle) : b.unitBusy = false := by
  simp [Block.unitBusy, hp, hs]

theorem TokKind.ofByte?_toByte (k : TokKind) : TokKind.ofByte? k.toByte = some k := by
  cases k <;> rfl

theorem TokKind.ofByte?_of_gt {k : Byte} (h : 2 < k.toNat) : TokKind.ofByte? k = none := by
  unfold TokKind.ofByte?
  split <;> simp_all

theorem TokKind.ofByte?_of_le {k : Byte} (h : k.toNat ≤ 2) : ∃ kind : TokKind, TokKind.ofByte? k = some kind := by
  unfold TokKind.ofByte?
  split <;> simp_all
  omega

end Sys2Proof.Machine
end

