-- ==== Sys2Proof/Laws/Chunk.lean ====
section
/-! SUPPORT. The chunk arithmetic of R163 on natural numbers: no intermediate value wraps. -/

namespace Sys2Proof.Machine

/-- `nchunks(L) = ceil(L / 256)`. -/
theorem nchunks_toNat (l : DWord) : (nchunks l).toNat = (l.toNat + 255) / 256 := by
  have h := l.isLt
  have hz : (l.extractLsb' 0 8).toNat = l.toNat % 256 := by simp
  unfold nchunks
  split
  · rename_i h0
    rw [h0] at hz
    simp at hz
    simp [Nat.shiftRight_eq_div_pow]
    omega
  · rename_i h0
    have : l.toNat % 256 ≠ 0 := fun e => h0 (BitVec.eq_of_toNat_eq (by rw [hz, e]; rfl))
    simp [Nat.shiftRight_eq_div_pow]
    omega

/-- `chunk_start(i) = 256 * i`, for every index of a chunk. -/
theorem chunkStart_toNat {l i : DWord} (h : i < nchunks l) : (chunkStart i).toNat = 256 * i.toNat := by
  have hl := l.isLt
  rw [BitVec.lt_def, nchunks_toNat] at h
  simp [chunkStart, Nat.shiftLeft_eq]
  omega

/-- `chunk_end(L, i) = min(256 * i + 256, L)`. -/
theorem chunkEnd_toNat {l i : DWord} (h : i < nchunks l) :
    (chunkEnd l i).toNat = min (256 * i.toNat + 256) l.toNat := by
  have hl := l.isLt
  have hs := chunkStart_toNat h
  rw [BitVec.lt_def, nchunks_toNat] at h
  have hsub : (l - chunkStart i).toNat = l.toNat - 256 * i.toNat := by
    rw [BitVec.toNat_sub_of_le (by rw [BitVec.le_def, hs]; omega), hs]
  unfold chunkEnd
  split
  · rename_i hc
    rw [BitVec.le_def, hsub] at hc
    simp at hc
    rw [BitVec.toNat_add, hs]
    simp
    omega
  · rename_i hc
    rw [BitVec.le_def, hsub] at hc
    simp at hc
    omega

/-- A chunk is not empty. -/
theorem chunkStart_lt_chunkEnd {l i : DWord} (h : i < nchunks l) : chunkStart i < chunkEnd l i := by
  rw [BitVec.lt_def, chunkStart_toNat h, chunkEnd_toNat h]
  rw [BitVec.lt_def, nchunks_toNat] at h
  omega

theorem nchunks_eq_zero {l : DWord} : nchunks l = 0 ↔ l = 0 := by
  have h := nchunks_toNat l
  have hl := l.isLt
  constructor
  · intro e
    rw [e] at h
    apply BitVec.eq_of_toNat_eq
    simp at h ⊢
    omega
  · rintro rfl
    decide

end Sys2Proof.Machine
end

