-- ==== Sys2Proof/Laws/Crc.lean ====
section
/-! SUPPORT. The CRC functions: linearity over XOR, and runs over joined byte strings. -/

namespace Sys2Proof.Machine

/-- One turn of the CRC register is linear over XOR. -/
theorem crcShift_xor (a b : Half) : crcShift (a ^^^ b) = crcShift a ^^^ crcShift b := by
  unfold crcShift
  rw [BitVec.getLsbD_xor, BitVec.ushiftRight_xor_distrib]
  cases a.getLsbD 0 <;> cases b.getLsbD 0 <;> simp
  · ac_rfl
  · ac_rfl
  · have h : a >>> 1 ^^^ 33800#16 ^^^ (b >>> 1 ^^^ 33800#16) = a >>> 1 ^^^ b >>> 1 ^^^ (33800#16 ^^^ 33800#16) := by
      ac_rfl
    rw [h]
    simp

@[simp] theorem crcRun_nil (c : Half) : crcRun c [] = c := rfl

@[simp] theorem crcRun_cons (c : Half) (b : Byte) (s : List Byte) : crcRun c (b :: s) = crcRun (crcUpd c b) s := rfl

theorem crcRun_append (c : Half) (s t : List Byte) : crcRun c (s ++ t) = crcRun (crcRun c s) t := by
  simp [crcRun]

theorem crcRun_snoc (c : Half) (s : List Byte) (b : Byte) : crcRun c (s ++ [b]) = crcUpd (crcRun c s) b := by
  simp [crcRun]

@[simp] theorem crcFinal_crcFinal (c : Half) : crcFinal (crcFinal c) = c := by
  simp [crcFinal]

end Sys2Proof.Machine
end

