-- ==== Sys2Proof/Laws/Decode.lean ====
section
/-! SUPPORT. The fields of a command word, and the decoder on a word built from fields. -/

namespace Sys2Proof

theorem commandWord_toNat (op imm : Byte) : (commandWord op imm).toNat = imm.toNat * 256 + op.toNat := by
  have h := Nat.shiftLeft_add_eq_or_of_lt (b := op.toNat) (i := 8) (by have := op.isLt; omega) imm.toNat
  have h1 := imm.isLt
  have h2 := op.isLt
  simp only [commandWord, BitVec.toNat_or, BitVec.toNat_shiftLeft, BitVec.toNat_setWidth]
  rw [Nat.mod_eq_of_lt (show imm.toNat < 2 ^ 32 by omega), Nat.mod_eq_of_lt (show op.toNat < 2 ^ 32 by omega),
    Nat.mod_eq_of_lt (by rw [Nat.shiftLeft_eq]; omega), ← h, Nat.shiftLeft_eq]

theorem rsvField_toNat (w : Word) : (rsvField w).toNat = w.toNat / 65536 := by
  have := w.isLt
  simp [rsvField, Nat.shiftRight_eq_div_pow]
  omega

theorem immField_toNat (w : Word) : (immField w).toNat = w.toNat / 256 % 256 := by
  simp [immField, Nat.shiftRight_eq_div_pow]

theorem opField_toNat (w : Word) : (opField w).toNat = w.toNat % 256 := by
  simp [opField]

@[simp] theorem rsvField_commandWord (op imm : Byte) : rsvField (commandWord op imm) = 0 := by
  have h1 := imm.isLt
  have h2 := op.isLt
  apply BitVec.eq_of_toNat_eq
  rw [rsvField_toNat, commandWord_toNat]
  simp
  omega

@[simp] theorem immField_commandWord (op imm : Byte) : immField (commandWord op imm) = imm := by
  have h1 := imm.isLt
  have h2 := op.isLt
  apply BitVec.eq_of_toNat_eq
  rw [immField_toNat, commandWord_toNat]
  omega

@[simp] theorem opField_commandWord (op imm : Byte) : opField (commandWord op imm) = op := by
  have h2 := op.isLt
  apply BitVec.eq_of_toNat_eq
  rw [opField_toNat, commandWord_toNat]
  omega

/-- A word with RSV = 0 is the command word of its two other fields. -/
theorem commandWord_of_fields {w : Word} (h : rsvField w = 0) : commandWord (opField w) (immField w) = w := by
  have hr := congrArg BitVec.toNat h
  rw [rsvField_toNat] at hr
  apply BitVec.eq_of_toNat_eq
  rw [commandWord_toNat, immField_toNat, opField_toNat]
  simp at hr
  omega

/-- The decoder on a word built from an opcode and an immediate is the opcode map. -/
@[simp] theorem decode_commandWord (op imm : Byte) : decode (commandWord op imm) = decodeFields op imm := by
  simp only [decode, rsvField_commandWord, if_true, opField_commandWord, immField_commandWord]

theorem decode_encode_fields (i : Instr) : decode (encode i) = decodeFields i.opcode i.imm8 := by
  rw [encode, decode_commandWord]

theorem decode_of_rsv_ne {w : Word} (h : rsvField w ≠ 0) : decode w = .error .reservedBits := by
  rw [decode, if_neg h]

theorem decode_of_rsv_eq {w : Word} (h : rsvField w = 0) : decode w = decodeFields (opField w) (immField w) := by
  rw [decode, if_pos h]

end Sys2Proof
end

