-- ==== Sys2Proof/Laws/Frame.lean ====
section
/-! SUPPORT. What no command and no RX step changes: said once for every shared operation, and then for exec. -/

namespace Sys2Proof.Machine

/-- The frame of a block step from `s` to `t` after any event has left the RX queue: the parameters, the environment's
lists, the queue, and the registers that only the controller writes; interrupt bits are only set and the TX stream only grows. -/
structure Frame (s t : State) : Prop where
  par : t.par = s.par
  script : t.script = s.script
  reads : t.reads = s.reads
  rxq : t.chan.rxq = s.chan.rxq
  arg : t.blk.arg = s.blk.arg
  tmoSizeAck : t.blk.tmoSizeAck = s.blk.tmoSizeAck
  tmoSizeOk : t.blk.tmoSizeOk = s.blk.tmoSizeOk
  tmoChunk : t.blk.tmoChunk = s.blk.tmoChunk
  tmoImageOk : t.blk.tmoImageOk = s.blk.tmoImageOk
  irqEn : t.blk.irqEn = s.blk.irqEn
  irqPend : ∀ n, s.blk.irqPend.getLsbD n = true → t.blk.irqPend.getLsbD n = true
  tx : ∃ sent, t.chan.tx = s.chan.tx ++ sent

theorem Frame.refl (s : State) : Frame s s :=
  ⟨rfl, rfl, rfl, rfl, rfl, rfl, rfl, rfl, rfl, rfl, fun _ h => h, [], by simp⟩

theorem Frame.trans {s t u : State} (h : Frame s t) (k : Frame t u) : Frame s u := by
  obtain ⟨x, hx⟩ := h.tx
  obtain ⟨y, hy⟩ := k.tx
  exact ⟨k.par.trans h.par, k.script.trans h.script, k.reads.trans h.reads, k.rxq.trans h.rxq, k.arg.trans h.arg,
    k.tmoSizeAck.trans h.tmoSizeAck, k.tmoSizeOk.trans h.tmoSizeOk, k.tmoChunk.trans h.tmoChunk,
    k.tmoImageOk.trans h.tmoImageOk, k.irqEn.trans h.irqEn, fun n hn => k.irqPend n (h.irqPend n hn),
    x ++ y, by rw [hy, hx, List.append_assoc]⟩

/-- What a change of the block alone must leave. -/
structure BlockFrame (a b : Block) : Prop where
  arg : b.arg = a.arg
  tmoSizeAck : b.tmoSizeAck = a.tmoSizeAck
  tmoSizeOk : b.tmoSizeOk = a.tmoSizeOk
  tmoChunk : b.tmoChunk = a.tmoChunk
  tmoImageOk : b.tmoImageOk = a.tmoImageOk
  irqEn : b.irqEn = a.irqEn
  irqPend : ∀ n, a.irqPend.getLsbD n = true → b.irqPend.getLsbD n = true

theorem BlockFrame.refl (b : Block) : BlockFrame b b := ⟨rfl, rfl, rfl, rfl, rfl, rfl, fun _ h => h⟩

/-- A change that keeps the pending bits as they are. -/
theorem BlockFrame.of_pend_eq {a b : Block} (h1 : b.arg = a.arg) (h2 : b.tmoSizeAck = a.tmoSizeAck)
    (h3 : b.tmoSizeOk = a.tmoSizeOk) (h4 : b.tmoChunk = a.tmoChunk) (h5 : b.tmoImageOk = a.tmoImageOk)
    (h6 : b.irqEn = a.irqEn) (h7 : b.irqPend = a.irqPend) : BlockFrame a b :=
  ⟨h1, h2, h3, h4, h5, h6, fun _ h => by rw [h7]; exact h⟩

/-- A change that sets pending bits (R246). -/
theorem BlockFrame.of_pend_or {a b : Block} (m : Byte) (h1 : b.arg = a.arg) (h2 : b.tmoSizeAck = a.tmoSizeAck)
    (h3 : b.tmoSizeOk = a.tmoSizeOk) (h4 : b.tmoChunk = a.tmoChunk) (h5 : b.tmoImageOk = a.tmoImageOk)
    (h6 : b.irqEn = a.irqEn) (h7 : b.irqPend = a.irqPend ||| m) : BlockFrame a b :=
  ⟨h1, h2, h3, h4, h5, h6, fun _ h => by rw [h7, BitVec.getLsbD_or, h, Bool.true_or]⟩

theorem State.mapBlk_frame {f : Block → Block} (s : State) (h : BlockFrame s.blk (f s.blk)) : Frame s (s.mapBlk f) :=
  ⟨rfl, rfl, rfl, rfl, h.arg, h.tmoSizeAck, h.tmoSizeOk, h.tmoChunk, h.tmoImageOk, h.irqEn, h.irqPend, [], by simp⟩

/-- A frame step followed by a change of the block. -/
theorem Frame.mapBlk {s t : State} {f : Block → Block} (h : Frame s t) (k : BlockFrame t.blk (f t.blk)) :
    Frame s (t.mapBlk f) := h.trans (t.mapBlk_frame k)

theorem State.emit_frame (bs : List Byte) (s : State) : Frame s (s.emit bs) :=
  ⟨rfl, rfl, rfl, rfl, rfl, rfl, rfl, rfl, rfl, rfl, fun _ h => h, sentBytes bs s.chan.draw, rfl⟩

theorem State.emitCounted_frame (bs : List Byte) (s : State) : Frame s (s.emitCounted bs) := by
  constructor <;> simp

/-- A frame step followed by a counted emission. -/
theorem Frame.emitCounted {s t : State} (h : Frame s t) (bs : List Byte) : Frame s (t.emitCounted bs) :=
  h.trans (t.emitCounted_frame bs)

theorem Block.cmdError_frame (c : ErrCode) (b : Block) : BlockFrame b (b.cmdError c) :=
  .of_pend_or Irq.cmdErr.mask rfl rfl rfl rfl rfl rfl rfl

theorem State.cmdError_frame (c : ErrCode) (s : State) : Frame s (s.cmdError c) :=
  s.mapBlk_frame (Block.cmdError_frame c s.blk)

theorem Block.txAbort_frame (b : Block) : BlockFrame b b.txAbort :=
  .of_pend_or Irq.abort.mask rfl rfl rfl rfl rfl rfl rfl

theorem Block.abort_frame (c : Cause) (b : Block) : BlockFrame b (b.abort c) :=
  .of_pend_or Irq.abort.mask rfl rfl rfl rfl rfl rfl rfl

theorem Block.enterSizeAck_frame (b : Block) : BlockFrame b b.enterSizeAck :=
  .of_pend_eq rfl rfl rfl rfl rfl rfl rfl

theorem Block.enterSizeOk_frame (b : Block) : BlockFrame b b.enterSizeOk :=
  .of_pend_eq rfl rfl rfl rfl rfl rfl rfl

theorem Block.enterImage_frame (b : Block) : BlockFrame b b.enterImage := by
  unfold Block.enterImage
  split
  · exact .of_pend_eq rfl rfl rfl rfl rfl rfl rfl
  · exact .of_pend_or Irq.chunkReq.mask rfl rfl rfl rfl rfl rfl rfl

theorem Block.chunkAcked_frame (b : Block) : BlockFrame b b.chunkAcked := by
  unfold Block.chunkAcked
  split
  · exact .of_pend_or Irq.chunkReq.mask rfl rfl rfl rfl rfl rfl rfl
  · exact .of_pend_eq rfl rfl rfl rfl rfl rfl rfl

theorem Block.enterDone_frame (b : Block) : BlockFrame b b.enterDone :=
  .of_pend_or Irq.done.mask rfl rfl rfl rfl rfl rfl rfl

theorem Block.onTimeout_frame (b : Block) : BlockFrame b b.onTimeout := by
  unfold Block.onTimeout
  split
  · exact b.abort_frame _
  · exact b.abort_frame _
  · exact .of_pend_or Irq.chunkReq.mask rfl rfl rfl rfl rfl rfl rfl
  · exact b.abort_frame _
  · exact .refl b

theorem Block.payloadSent_frame (x : Byte) (b : Block) : BlockFrame b (b.payloadSent x) := by
  unfold Block.payloadSent
  dsimp only
  split <;> exact .of_pend_eq rfl rfl rfl rfl rfl rfl rfl

theorem State.sendSize_frame (s : State) : Frame s s.sendSize := by
  have h := (s.mapBlk_frame (f := fun b => { b with phase := .sSendSize }) (.of_pend_eq rfl rfl rfl rfl rfl rfl rfl)).trans
    (State.emit_frame (be8 s.blk.len) _)
  unfold State.sendSize
  dsimp only
  split
  · exact h.mapBlk (Block.txAbort_frame _)
  · exact h.mapBlk (Block.enterSizeAck_frame _)

theorem State.onMatch_frame (s : State) : Frame s s.onMatch := by
  unfold State.onMatch
  split
  · exact s.sendSize_frame
  · exact s.mapBlk_frame (Block.enterSizeOk_frame _)
  · exact s.mapBlk_frame (Block.enterImage_frame _)
  · exact s.mapBlk_frame (Block.chunkAcked_frame _)
  · exact s.mapBlk_frame (Block.enterDone_frame _)
  · exact .refl s

theorem State.scanEnd_frame (r : ScanEnd) (s : State) : Frame s (s.scanEnd r) := by
  have h : Frame s (s.mapBlk (Block.closeScan r)) :=
    s.mapBlk_frame (.of_pend_or Irq.scanDone.mask rfl rfl rfl rfl rfl rfl rfl)
  unfold State.scanEnd
  dsimp only
  split
  · cases r
    · exact h.trans (State.onMatch_frame _)
    · exact h.mapBlk (Block.onTimeout_frame _)
  · exact h

theorem State.confirmSize_frame (s : State) : Frame s s.confirmSize :=
  (((s.emitCounted_frame _).mapBlk (f := Block.beginConfirmSize) (.of_pend_eq rfl rfl rfl rfl rfl rfl rfl)).emitCounted
    _).mapBlk (f := Block.enterAllocWait) (.of_pend_or Irq.allocReq.mask rfl rfl rfl rfl rfl rfl rfl)

theorem State.confirmImage_frame (s : State) : Frame s s.confirmImage :=
  ((s.mapBlk_frame (f := Block.beginConfirmImage) (.of_pend_eq rfl rfl rfl rfl rfl rfl rfl)).emitCounted _).mapBlk
    (f := Block.enterHandoff) (.of_pend_or Irq.done.mask rfl rfl rfl rfl rfl rfl rfl)

theorem State.runScan_frame (m : ScanMode) (s : State) : Frame s (s.runScan m) := by
  have h : Frame s (s.mapBlk fun b => { b with cur := 0, sres := .none }) :=
    s.mapBlk_frame (.of_pend_eq rfl rfl rfl rfl rfl rfl rfl)
  unfold State.runScan
  dsimp only
  split
  · exact h.trans (State.scanEnd_frame _ _)
  · exact h.mapBlk (.of_pend_eq rfl rfl rfl rfl rfl rfl rfl)

theorem State.sendPayload_frame (x : Byte) (s : State) : Frame s (s.sendPayload x) := by
  unfold State.sendPayload
  split
  · exact (s.emit_frame _).mapBlk (Block.txAbort_frame _)
  · exact (s.emit_frame _).mapBlk (Block.payloadSent_frame x _)

theorem State.requestImage_frame (s : State) : Frame s s.requestImage :=
  ((s.mapBlk_frame (f := fun b => { b.beginReceive with phase := .rRequestImage })
    (.of_pend_eq rfl rfl rfl rfl rfl rfl rfl)).emitCounted _).mapBlk
    (f := fun b => { b with phase := .rReceiveSize }) (.of_pend_eq rfl rfl rfl rfl rfl rfl rfl)

theorem State.allocated_frame (s : State) : Frame s s.allocated := by
  have h : Frame s (s.mapBlk fun b => { b with phase := .rReceiveImage }) :=
    s.mapBlk_frame (.of_pend_eq rfl rfl rfl rfl rfl rfl rfl)
  unfold State.allocated
  dsimp only
  split
  · exact h.trans (State.confirmImage_frame _)
  · exact h

theorem State.chunkFilled_frame (s : State) : Frame s s.chunkFilled := by
  have h : Frame s ((s.emitCounted (tok .ack s.blk.idx)).mapBlk Block.commitChunk) :=
    (s.emitCounted_frame _).mapBlk (.of_pend_eq rfl rfl rfl rfl rfl rfl rfl)
  unfold State.chunkFilled
  dsimp only
  split
  · exact h.trans (State.confirmImage_frame _)
  · exact h.mapBlk (.of_pend_eq rfl rfl rfl rfl rfl rfl rfl)

theorem State.takeByte_frame (s : State) : Frame s s.takeByte := by
  have h : Frame s (s.mapBlk Block.release) := s.mapBlk_frame (.of_pend_eq rfl rfl rfl rfl rfl rfl rfl)
  unfold State.takeByte
  dsimp only
  split
  · exact h.trans (State.chunkFilled_frame _)
  · exact h

/-- Every command answers a next state, inside the frame: no command stops the machine, writes a register that only the
controller writes, clears an interrupt bit or takes back a byte sent. -/
theorem exec_frame (i : Instr) (s : State) : ∃ t, exec i s = .next t ∧ Frame s t := by
  have err : ∀ c, ∃ t, s.raise c = .next t ∧ Frame s t := fun c => ⟨_, rfl, State.cmdError_frame c s⟩
  cases i with
  | nop => exact ⟨s, rfl, .refl s⟩
  | crcInit => exact ⟨_, rfl, s.mapBlk_frame (.of_pend_eq rfl rfl rfl rfl rfl rfl rfl)⟩
  | crcByte b => exact ⟨_, rfl, s.mapBlk_frame (.of_pend_eq rfl rfl rfl rfl rfl rfl rfl)⟩
  | tokEmit k =>
    simp only [exec, execTokEmit]
    split
    · exact err _
    · split
      · exact ⟨_, rfl, s.emitCounted_frame _⟩
      · exact err _
  | scnTok k =>
    simp only [exec, execScnTok]
    split
    · exact err _
    · split
      · exact err _
      · exact ⟨_, rfl, s.mapBlk_frame (.of_pend_eq rfl rfl rfl rfl rfl rfl rfl)⟩
  | scnClr =>
    simp only [exec, execScnClr]
    split
    · exact err _
    · exact ⟨_, rfl, s.mapBlk_frame (.of_pend_eq rfl rfl rfl rfl rfl rfl rfl)⟩
  | scnPush b =>
    simp only [exec, execScnPush]
    split
    · exact err _
    · split
      · exact err _
      · exact ⟨_, rfl, s.mapBlk_frame (.of_pend_eq rfl rfl rfl rfl rfl rfl rfl)⟩
  | scnRun =>
    simp only [exec, execScnRun]
    split
    · exact err _
    · exact ⟨_, rfl, s.runScan_frame _⟩
  | scnRunb =>
    simp only [exec, execScnRunb]
    split
    · exact err _
    · exact ⟨_, rfl, (s.mapBlk_frame (f := fun b => { b with budget := b.argBudget })
        (.of_pend_eq rfl rfl rfl rfl rfl rfl rfl)).trans (State.runScan_frame _ _)⟩
  | arbSend =>
    simp only [exec, execArbSend]
    split
    · exact err _
    · exact ⟨_, rfl, s.mapBlk_frame (.of_pend_eq rfl rfl rfl rfl rfl rfl rfl)⟩
  | arbRecv =>
    simp only [exec, execArbRecv]
    split
    · exact err _
    · exact ⟨_, rfl, s.requestImage_frame⟩
  | arbAlloc =>
    simp only [exec, execArbAlloc]
    split
    · exact ⟨_, rfl, s.allocated_frame⟩
    · exact err _
  | arbNoalloc =>
    simp only [exec, execArbNoalloc]
    split
    · exact ⟨_, rfl, s.mapBlk_frame (.of_pend_or Irq.abort.mask rfl rfl rfl rfl rfl rfl rfl)⟩
    · exact err _
  | rxTake =>
    simp only [exec, execRxTake]
    split
    · split
      · exact ⟨_, rfl, s.takeByte_frame⟩
      · exact err _
    · exact err _
  | arbClear =>
    simp only [exec, execArbClear]
    split
    · exact ⟨_, rfl, s.mapBlk_frame (.of_pend_eq rfl rfl rfl rfl rfl rfl rfl)⟩
    · exact err _
  | txByte b =>
    simp only [exec, execTxByte]
    split
    · exact ⟨_, rfl, s.emitCounted_frame _⟩
    · split
      · exact ⟨_, rfl, s.sendPayload_frame _⟩
      · exact err _

/-- Every command error the decoder raises, and every command, answers a next state inside the frame. -/
theorem command_frame (w : Word) (s : State) : ∃ t, s.command w = .next t ∧ Frame s t := by
  unfold State.command
  split
  · exact exec_frame _ s
  · exact ⟨_, rfl, State.cmdError_frame _ s⟩

end Sys2Proof.Machine
end

