-- ==== Sys2Proof/Laws/Token.lean ====
section
/-! SUPPORT. The token codec: lengths and characters of decimal strings and tokens. -/

namespace Sys2Proof.Machine

theorem decDigits_length_le (fuel n : Nat) : (decDigits fuel n).length ≤ fuel := by
  induction fuel generalizing n with
  | zero => simp [decDigits]
  | succ f ih =>
    unfold decDigits
    split
    · simp
    · simpa using ih (n / 10)

theorem decDigits_ne_nil {fuel n : Nat} (hf : fuel ≠ 0) (hn : n ≠ 0) : decDigits fuel n ≠ [] := by
  cases fuel with
  | zero => exact absurd rfl hf
  | succ f => simp [decDigits, hn]

theorem dec_length_le (n : DWord) : (dec n).length ≤ 20 := by
  unfold dec
  split
  · simp
  · exact decDigits_length_le 20 _

theorem dec_length_pos (n : DWord) : 1 ≤ (dec n).length := by
  unfold dec
  split
  · simp
  · rename_i h
    have : n.toNat ≠ 0 := fun h0 => h (BitVec.eq_of_toNat_eq (by simpa using h0))
    have := decDigits_ne_nil (fuel := 20) (by decide) this
    exact List.length_pos_of_ne_nil this

/-- `|tok(k, n)|` for each kind (R121). -/
theorem tok_length (k : TokKind) (n : DWord) : (tok k n).length = k.opening.length + (dec n).length + 2 := by
  simp [tok]
  omega

/-- Every token fits the target buffer (R121). -/
theorem tok_length_le (k : TokKind) (n : DWord) : (tok k n).length ≤ 26 := by
  have h := dec_length_le n
  have hk : k.opening.length ≤ 4 := by cases k <;> decide
  rw [tok_length]
  omega

/-- "A token is never empty" (R121). -/
theorem tok_length_pos (k : TokKind) (n : DWord) : 0 < (tok k n).length := by
  rw [tok_length]
  omega

/-- The 5-bit length of a token is its length. -/
theorem tok_tlen (k : TokKind) (n : DWord) : (BitVec.ofNat 5 (tok k n).length).toNat = (tok k n).length := by
  have := tok_length_le k n
  rw [BitVec.toNat_ofNat]
  omega

end Sys2Proof.Machine
end

