-- ==== Sys2Proof/Laws/Scanner.lean ====
section
/-! SUPPORT. The scan target: what a load leaves in the buffer, and that the target is then the loaded string. -/

namespace Sys2Proof.Machine

/-- A write of `s` from place `j` on replaces exactly those places of the buffer. -/
theorem writeTarget_toList (s : List Byte) (j : Nat) (v : Vector Byte tokenMax) (h : j + s.length ≤ tokenMax) :
    (writeTarget s j v).toList = v.toList.take j ++ s ++ v.toList.drop (j + s.length) := by
  induction s generalizing j v with
  | nil => simp [writeTarget]
  | cons b bs ih =>
    have hj : j < v.toList.length := by
      simp only [List.length_cons] at h
      simp
      omega
    rw [writeTarget, ih (j + 1) _ (by simp only [List.length_cons] at h; omega)]
    rw [Vector.toList_setIfInBounds]
    have h1 : (v.toList.set j b).take (j + 1) = v.toList.take j ++ [b] := by
      rw [List.take_set, List.take_succ_eq_append_getElem hj, List.set_append]
      have hl : (List.take j v.toList).length = j := by simp only [List.length_take]; omega
      simp [hl]
    have h2 : (v.toList.set j b).drop (j + 1 + bs.length) = v.toList.drop (j + (b :: bs).length) := by
      rw [List.drop_set_of_lt (by omega)]
      congr 1
      simp only [List.length_cons]
      omega
    rw [h1, h2]
    simp

/-- The target depends on the buffer and its length alone. -/
theorem target_congr {a b : Block} (h : a.tgt = b.tgt) (hl : a.tlen = b.tlen) : a.target = b.target := by
  simp [Block.target, h, hl]

/-- Loading a string that fits makes it the target (R123, R131). -/
theorem target_loadTarget (s : List Byte) (b : Block) (h : s.length ≤ tokenMax) : (b.loadTarget s).target = s := by
  have hl : (BitVec.ofNat 5 s.length).toNat = s.length := by
    rw [BitVec.toNat_ofNat]
    have : tokenMax = 26 := rfl
    omega
  rw [Block.target, Block.loadTarget_tgt, Block.loadTarget_tlen, hl, writeTarget_toList s 0 _ (by omega)]
  simp

/-- A scan start makes its token the target (R131). -/
theorem target_startScan (k : TokKind) (n : DWord) (m : ScanMode) (v : Word) (b : Block) :
    (b.startScan k n m v).target = tok k n := by
  have h := target_loadTarget (tok k n) b (tok_length_le k n)
  rw [← h]
  exact target_congr rfl rfl

theorem target_length {b : Block} (h : b.tlen.toNat ≤ tokenMax) : b.target.length = b.tlen.toNat := by
  simp [Block.target]
  exact h

/-- A scan start leaves a running scan's cursor below its length. -/
theorem startScan_cur_lt (k : TokKind) (n : DWord) (m : ScanMode) (v : Word) (b : Block) :
    (b.startScan k n m v).cur.toNat < (b.startScan k n m v).tlen.toNat := by
  rw [Block.startScan_cur, Block.startScan_tlen, tok_tlen]
  exact tok_length_pos k n

theorem startScan_tlen_le (k : TokKind) (n : DWord) (m : ScanMode) (v : Word) (b : Block) :
    (b.startScan k n m v).tlen.toNat ≤ tokenMax := by
  rw [Block.startScan_tlen, tok_tlen]
  exact tok_length_le k n

end Sys2Proof.Machine
end

