-- ==== Sys2Proof/Laws/Invariant.lean ====
section
/-! SUPPORT. Tools for the block's invariant: changes it does not see, scan starts, and where chunks begin and end. -/

namespace Sys2Proof.Machine

/-- A change of fields the invariant does not read keeps it. -/
theorem Block.Inv.congr {a b : Block} (h : a.Inv) (htgt : b.tgt = a.tgt) (htlen : b.tlen = a.tlen) (hcur : b.cur = a.cur)
    (hsmode : b.smode = a.smode) (hsres : b.sres = a.sres) (hphase : b.phase = a.phase) (hcause : b.cause = a.cause)
    (hheld : b.held = a.held) (hlen : b.len = a.len) (hidx : b.idx = a.idx) (hoff : b.off = a.off) (hacc : b.acc = a.acc)
    (hexpcrc : b.expcrc = a.expcrc) : b.Inv := by
  cases a
  cases b
  simp only at *
  subst_vars
  exact ⟨h.tlenLe, h.curLe, h.scanning, h.matchedCur, h.steady, h.heldPhase, h.wait, h.progress, h.causes⟩

/-- A command error keeps the invariant (R241). -/
theorem Block.Inv.cmdError {b : Block} (h : b.Inv) (c : ErrCode) : (b.cmdError c).Inv :=
  h.congr rfl rfl rfl rfl rfl rfl rfl rfl rfl rfl rfl rfl rfl

/-- Only R_RECEIVE_IMAGE holds a byte (R43). -/
theorem Block.Inv.not_held {b : Block} (h : b.Inv) (hp : b.phase ≠ .rReceiveImage) : b.held = false := by
  by_contra hc
  exact hp (h.heldPhase (by simpa using hc))

/-- A scan start gives the scanner's part of the invariant; the phase's own parts remain. -/
theorem startScan_inv {b : Block} (k : TokKind) (n : DWord) (m : ScanMode) (v : Word) (hh : b.held = false)
    (hs : b.phase.transient = false) (hw : (b.startScan k n m v).waitOk) (hp : b.progressOk) (hc : b.causeOk) :
    (b.startScan k n m v).Inv where
  tlenLe := startScan_tlen_le k n m v b
  curLe := Nat.le_of_lt (startScan_cur_lt k n m v b)
  scanning _ := ⟨startScan_cur_lt k n m v b, rfl⟩
  matchedCur h := by simp at h
  steady := hs
  heldPhase h := by simp [hh] at h
  wait := hw
  progress := hp
  causes := hc

/-- The first byte of a chunk is inside it. -/
theorem insideChunk_start {b : Block} (h : b.idx < nchunks b.len) (ho : b.off = chunkStart b.idx) : b.insideChunk :=
  ⟨h, by rw [ho]; simp, by rw [ho]; exact chunkStart_lt_chunkEnd h⟩

/-- The last chunk ends where the image ends (R163). -/
theorem chunkEnd_last {l i : DWord} (h : i < nchunks l) (hn : ¬ i + 1 < nchunks l) : chunkEnd l i = l := by
  apply BitVec.eq_of_toNat_eq
  rw [chunkEnd_toNat h]
  have hl := l.isLt
  have hi := i.isLt
  rw [BitVec.lt_def, nchunks_toNat] at h hn
  rw [BitVec.toNat_add] at hn
  simp at hn
  omega

/-- A chunk that is not the last ends where the next one starts (R163). -/
theorem chunkEnd_next {l i : DWord} (h : i + 1 < nchunks l) (hi : i < nchunks l) : chunkEnd l i = chunkStart (i + 1) := by
  apply BitVec.eq_of_toNat_eq
  rw [chunkEnd_toNat hi, chunkStart_toNat h]
  have hl := l.isLt
  rw [BitVec.lt_def, nchunks_toNat] at h hi
  have e : (i + 1).toNat = i.toNat + 1 := by
    rw [BitVec.toNat_add]
    simp
    omega
  rw [e] at h ⊢
  omega

/-- A byte of a chunk that is not its last is followed by another. -/
theorem insideChunk_next {b : Block} (h : b.insideChunk) (hn : b.off + 1 ≠ chunkEnd b.len b.idx) :
    chunkStart b.idx ≤ b.off + 1 ∧ b.off + 1 < chunkEnd b.len b.idx := by
  obtain ⟨_, h1, h2⟩ := h
  have hlt := (chunkEnd b.len b.idx).isLt
  rw [BitVec.le_def] at h1
  rw [BitVec.lt_def] at h2
  have hne : (b.off + 1).toNat ≠ (chunkEnd b.len b.idx).toNat := fun e => hn (BitVec.eq_of_toNat_eq e)
  have he : (b.off + 1).toNat = b.off.toNat + 1 := by
    rw [BitVec.toNat_add]
    simp
    omega
  rw [BitVec.le_def, BitVec.lt_def, he]
  omega

/-- Turns of the RX port in two parts. -/
theorem rxTurns_add (m n : Nat) (s : State) : s.rxTurns (m + n) = (s.rxTurns m).rxTurns n := by
  induction m generalizing s with
  | zero => simp [State.rxTurns]
  | succ m ih => rw [Nat.succ_add, State.rxTurns, State.rxTurns, ih]

end Sys2Proof.Machine
end

