-- ==== Sys2Proof/Laws/Step.lean ====
section
/-! SUPPORT. What one step can be, said once: every proof about `step` starts from `step_cases`. -/

namespace Sys2Proof.Machine

theorem step_nil {s : State} (h : s.script = []) : step s = .next s := by
  rw [step, h]

theorem step_cons {s : State} {x : Stimulus} {rest : List Stimulus} (h : s.script = x :: rest) :
    step s = State.stimulate x { s with script := rest } := by
  rw [step, h]

/-- An aligned 32-bit write of CMD runs the command word (R64). -/
theorem stimulate_commandOf (w : Word) (s : State) : s.stimulate (.commandOf w) = s.command w := by
  simp only [State.stimulate, Stimulus.commandOf, Stimulus.writeOf, State.access, State.serve, State.regWrite,
    Access.defined, Access.inWindow, Reg.offset, Reg.ofOffset?]
  simp

theorem step_command {s : State} {w : Word} {rest : List Stimulus} (h : s.script = .commandOf w :: rest) :
    step s = State.command w { s with script := rest } := by
  rw [step_cons h, stimulate_commandOf]

theorem step_withCommand (w : Word) (s : State) : step (s.withCommand w) = s.command w :=
  step_command (s := s.withCommand w) rfl

theorem step_withFetchWord (s : State) (nbits w : Nat) :
    step (s.withFetchWord nbits w) = s.command (BitVec.ofNat 32 (w % 2 ^ nbits)) := by
  rw [State.withFetchWord, step_withCommand]

theorem command_of_ok {w : Word} {i : Instr} (h : decode w = .ok i) (s : State) : s.command w = exec i s := by
  simp [State.command, h]

theorem command_of_error {w : Word} {e : DecodeError} (h : decode w = .error e) (s : State) :
    s.command w = .next (s.cmdError (errOfDecode e)) := by
  simp [State.command, h, State.raise]

theorem State.scanEvent_frame (e : RxEvent) (s : State) : Frame s (s.scanEvent e) := by
  have charge : Frame s s.scanUnsuccessful := by
    unfold State.scanUnsuccessful State.chargeBudget
    split
    · split
      · exact (s.mapBlk_frame (f := fun b => { b with budget := 0 }) (.of_pend_eq rfl rfl rfl rfl rfl rfl rfl)).trans
          (State.scanEnd_frame _ _)
      · exact s.mapBlk_frame (.of_pend_eq rfl rfl rfl rfl rfl rfl rfl)
    · exact .refl s
  cases e with
  | byte x =>
    have h : Frame s (s.mapBlk fun b => { b with cur := b.nextCursor x }) :=
      s.mapBlk_frame (.of_pend_eq rfl rfl rfl rfl rfl rfl rfl)
    simp only [State.scanEvent, State.scanByte]
    split
    · exact h.trans (State.scanEnd_frame _ _)
    · exact h
  | error => exact charge
  | quiet => exact charge

theorem State.sizeEvent_frame (e : RxEvent) (s : State) : Frame s (s.sizeEvent e) := by
  cases e with
  | byte x =>
    have h : Frame s (s.mapBlk (Block.takeSizeByte x)) := s.mapBlk_frame (.of_pend_eq rfl rfl rfl rfl rfl rfl rfl)
    simp only [State.sizeEvent]
    split
    · exact h.trans (State.confirmSize_frame _)
    · exact h
  | error => exact s.mapBlk_frame (.of_pend_or Irq.restart.mask rfl rfl rfl rfl rfl rfl rfl)
  | quiet => exact .refl s

theorem State.imageEvent_frame (e : RxEvent) (s : State) : Frame s (s.imageEvent e) := by
  cases e with
  | byte x => exact s.mapBlk_frame (.of_pend_or Irq.rxAvail.mask rfl rfl rfl rfl rfl rfl rfl)
  | error => exact s.mapBlk_frame (.of_pend_or Irq.restart.mask rfl rfl rfl rfl rfl rfl rfl)
  | quiet => exact .refl s

theorem State.onRxEvent_frame (e : RxEvent) (s : State) : Frame s (s.onRxEvent e) := by
  unfold State.onRxEvent
  split
  · exact s.scanEvent_frame e
  · split
    · exact s.sizeEvent_frame e
    · exact s.imageEvent_frame e

theorem rxStep_of_reading {s : State} (h : s.blk.reading = true) : s.rxStep = s.dropRx.onRxEvent s.chan.rxEvent := by
  rw [State.rxStep, if_pos h]

theorem rxStep_of_not_reading {s : State} (h : s.blk.reading = false) : s.rxStep = s := by
  simp [State.rxStep, h]

/-- One turn of the RX port stays inside the frame but for the element it takes. -/
theorem rxStep_frame (s : State) : Frame (if s.blk.reading then s.dropRx else s) s.rxStep := by
  unfold State.rxStep
  split
  · exact State.onRxEvent_frame _ _
  · exact .refl s

/-- All that a step that answers next can be. `rest` is what the script keeps. -/
inductive StepCase (s s' : State) : Prop where
  | still (h : s.script = []) (e : s' = s)
  | append (x : RxElem) (rest : List Stimulus) (h : s.script = .append x :: rest)
      (e : s' = { s with script := rest, chan.rxq := s.chan.rxq ++ [x] })
  | rx (rest : List Stimulus) (h : s.script = .rx :: rest) (e : s' = State.rxStep { s with script := rest })
  | reset (rest : List Stimulus) (h : s.script = .reset :: rest) (e : s' = State.resetStep { s with script := rest })
  | read (off : Nat) (rest : List Stimulus) (h : s.script = .access ⟨4, off, .read⟩ :: rest)
      (hoff : off % 4 = 0 ∧ off < 0x100) (e : s' = { s with script := rest, reads := s.reads ++ [s.blk.regRead off] })
  | command (w : Word) (rest : List Stimulus) (h : s.script = .commandOf w :: rest)
      (e : State.command w { s with script := rest } = .next s')
  | write (off : Nat) (v : Word) (r : Reg) (rest : List Stimulus) (h : s.script = .access ⟨4, off, .write v⟩ :: rest)
      (hoff : off % 4 = 0 ∧ off < 0x100) (hr : Reg.ofOffset? off = some r) (hne : r ≠ .cmd)
      (e : s' = State.mapBlk (fun b => b.writeReg v r) { s with script := rest })
  | writeReserved (off : Nat) (v : Word) (rest : List Stimulus) (h : s.script = .access ⟨4, off, .write v⟩ :: rest)
      (hoff : off % 4 = 0 ∧ off < 0x100) (hr : Reg.ofOffset? off = none) (e : s' = { s with script := rest })

theorem ofOffset?_eq_cmd {off : Nat} (h : Reg.ofOffset? off = some .cmd) : off = 0x10 := by
  unfold Reg.ofOffset? at h
  split at h <;> first | rfl | (simp at h)

/-- The inversion of `step`. -/
theorem step_cases {s s' : State} (h : step s = .next s') : StepCase s s' := by
  match hs : s.script with
  | [] =>
    rw [step_nil hs] at h
    exact .still hs (by injection h with h; exact h.symm)
  | .append x :: rest =>
    rw [step_cons hs] at h
    exact .append x rest hs (by injection h with h; exact h.symm)
  | .rx :: rest =>
    rw [step_cons hs] at h
    exact .rx rest hs (by injection h with h; exact h.symm)
  | .reset :: rest =>
    rw [step_cons hs] at h
    exact .reset rest hs (by injection h with h; exact h.symm)
  | .access ⟨width, off, kind⟩ :: rest =>
    rw [step_cons hs] at h
    simp only [State.stimulate, State.access] at h
    split at h
    · rename_i hd
      simp only [Access.defined, Bool.and_eq_true, beq_iff_eq] at hd
      obtain ⟨rfl, hal⟩ := hd
      split at h
      · rename_i hw
        simp only [Access.inWindow, decide_eq_true_eq] at hw
        cases kind with
        | read => exact .read off rest hs ⟨hal, hw⟩ (by injection h with h; exact h.symm)
        | write v =>
          simp only [State.serve, State.regWrite] at h
          split at h
          · rename_i hr
            obtain rfl := ofOffset?_eq_cmd hr
            exact .command v rest hs h
          · rename_i r hne hr
            exact .write off v r rest hs ⟨hal, hw⟩ hr hne
              (by injection h with h; exact h.symm)
          · rename_i hr
            exact .writeReserved off v rest hs ⟨hal, hw⟩ hr (by injection h with h; exact h.symm)
      · exact absurd h (by simp)
    · exact absurd h (by simp)

end Sys2Proof.Machine
end

