-- ==== Sys2Proof/Laws/Link.lean ====
section
/-! SUPPORT. The moves of the two-instance system, one equation each. -/

namespace Sys2Proof.Machine

/-- An end's move is a step of its instance with that stimulus first in the script. -/
theorem step_of_endMove (x : EndMove) (s : State) :
    step { s with script := x.stimulus :: s.script } = State.stimulate x.stimulus s := rfl

theorem Link.move_host {l : Link} {x : EndMove} {s : State} (h : State.stimulate x.stimulus l.host = .next s) :
    l.move (.host x) = .next { l with host := s } := by
  simp [Link.move, h]

theorem Link.move_firmware {l : Link} {x : EndMove} {s : State} (h : State.stimulate x.stimulus l.firmware = .next s) :
    l.move (.firmware x) = .next { l with firmware := s } := by
  simp [Link.move, h]

/-- What a host move that answers next can be. -/
theorem Link.move_host_cases {l m : Link} {x : EndMove} (h : l.move (.host x) = .next m) :
    ∃ s, State.stimulate x.stimulus l.host = .next s ∧ m = { l with host := s } := by
  simp only [Link.move] at h
  split at h
  · rename_i s hs
    exact ⟨s, hs, by injection h with h; exact h.symm⟩
  · cases h
  · cases h

/-- What a firmware move that answers next can be. -/
theorem Link.move_firmware_cases {l m : Link} {x : EndMove} (h : l.move (.firmware x) = .next m) :
    ∃ s, State.stimulate x.stimulus l.firmware = .next s ∧ m = { l with firmware := s } := by
  simp only [Link.move] at h
  split at h
  · rename_i s hs
    exact ⟨s, hs, by injection h with h; exact h.symm⟩
  · cases h
  · cases h

theorem Link.carryToFirmware_of_some {l : Link} {b : Byte} (h : l.host.chan.tx[l.hostSent]? = some b) :
    l.move .carryToFirmware =
      .next { l with firmware := l.firmware.receive (.byte b), hostSent := l.hostSent + 1 } := by
  simp [Link.move, h]

theorem Link.carryToFirmware_of_none {l : Link} (h : l.host.chan.tx[l.hostSent]? = none) :
    l.move .carryToFirmware = .next l := by
  simp only [Link.move, h]

theorem Link.carryToHost_of_some {l : Link} {b : Byte} (h : l.firmware.chan.tx[l.firmwareSent]? = some b) :
    l.move .carryToHost =
      .next { l with host := l.host.receive (.byte b), firmwareSent := l.firmwareSent + 1 } := by
  simp [Link.move, h]

theorem Link.carryToHost_of_none {l : Link} (h : l.firmware.chan.tx[l.firmwareSent]? = none) :
    l.move .carryToHost = .next l := by
  simp only [Link.move, h]

@[simp] theorem ChannelKind.inserted_ideal (e : RxElem) : ChannelKind.ideal.inserted e = none := rfl

@[simp] theorem ChannelKind.inserted_any (e : RxElem) : ChannelKind.any.inserted e = some e := rfl

@[simp] theorem State.receive?_none (s : State) : s.receive? none = s := rfl

@[simp] theorem State.receive?_some (e : RxElem) (s : State) : s.receive? (some e) = s.receive e := rfl

@[simp] theorem State.receive_blk (e : RxElem) (s : State) : (s.receive e).blk = s.blk := rfl

@[simp] theorem State.receive_tx (e : RxElem) (s : State) : (s.receive e).chan.tx = s.chan.tx := rfl

@[simp] theorem State.receive_rxq (e : RxElem) (s : State) : (s.receive e).chan.rxq = s.chan.rxq ++ [e] := rfl

end Sys2Proof.Machine
end

