-- ==== Sys2Proof/Laws/PerInstr.lean ====
section
/-! SUPPORT. Statements about every command as syntax, one lemma a constructor. -/

namespace Sys2Proof.Laws.Encoding

open Sys2Proof.Machine

/-- The encoding of a command: its opcode is in the table of R84, a format-N command has a zero immediate (R81), the kinds
that R82 makes legal are the well-formed ones, and the word's fields are the command's, RSV being 0 (R80). -/
def Statement (i : Instr) : Prop :=
  i.opcode ∈ tableOpcodes ∧ (i.opcode ∈ formatNOpcodes → i.imm8 = 0) ∧
    (i.wf = true ↔ (i.opcode ∈ kindOpcodes → i.imm8.toNat ≤ 2)) ∧
    rsvField (encode i) = 0 ∧ immField (encode i) = i.imm8 ∧ opField (encode i) = i.opcode

/-- The three fields of an encoded command. -/
theorem encode_fields (i : Instr) :
    rsvField (encode i) = 0 ∧ immField (encode i) = i.imm8 ∧ opField (encode i) = i.opcode :=
  ⟨rsvField_commandWord _ _, immField_commandWord _ _, opField_commandWord _ _⟩

/-- A format-N command satisfies the statement. -/
theorem of_formatN {i : Instr} (h : i.opcode ∈ formatNOpcodes) (hi : i.imm8 = 0) (hw : i.wf = true) : Statement i := by
  have hs : ∀ op ∈ formatNOpcodes, op ∈ tableOpcodes ∧ op ∉ kindOpcodes := by decide
  exact ⟨(hs _ h).1, fun _ => hi, ⟨fun _ k => absurd k (hs _ h).2, fun _ => hw⟩, encode_fields i⟩

/-- A command with a data byte satisfies the statement. -/
theorem of_data {i : Instr} (h : i.opcode ∈ dataOpcodes) (hw : i.wf = true) : Statement i := by
  have hs : ∀ op ∈ dataOpcodes, op ∈ tableOpcodes ∧ op ∉ formatNOpcodes ∧ op ∉ kindOpcodes := by decide
  exact ⟨(hs _ h).1, fun n => absurd n (hs _ h).2.1, ⟨fun _ k => absurd k (hs _ h).2.2, fun _ => hw⟩, encode_fields i⟩

/-- A command with a token kind satisfies the statement. -/
theorem of_kind {i : Instr} (h : i.opcode ∈ kindOpcodes) (hw : i.wf = true ↔ i.imm8.toNat ≤ 2) : Statement i := by
  have hs : ∀ op ∈ kindOpcodes, op ∈ tableOpcodes ∧ op ∉ formatNOpcodes := by decide
  exact ⟨(hs _ h).1, fun n => absurd n (hs _ h).2, ⟨fun w _ => hw.1 w, fun k => hw.2 (k h)⟩, encode_fields i⟩

theorem nop : Statement .nop := of_formatN (by decide) rfl rfl

theorem crcInit : Statement .crcInit := of_formatN (by decide) rfl rfl

theorem crcByte (b : Byte) : Statement (.crcByte b) := of_data (by simp [Instr.opcode, dataOpcodes]) rfl

theorem tokEmit (k : Byte) : Statement (.tokEmit k) :=
  of_kind (by simp [Instr.opcode, kindOpcodes]) (by simp [Instr.wf, Instr.imm8])

theorem scnTok (k : Byte) : Statement (.scnTok k) :=
  of_kind (by simp [Instr.opcode, kindOpcodes]) (by simp [Instr.wf, Instr.imm8])

theorem scnClr : Statement .scnClr := of_formatN (by decide) rfl rfl

theorem scnPush (b : Byte) : Statement (.scnPush b) := of_data (by simp [Instr.opcode, dataOpcodes]) rfl

theorem scnRun : Statement .scnRun := of_formatN (by decide) rfl rfl

theorem scnRunb : Statement .scnRunb := of_formatN (by decide) rfl rfl

theorem arbSend : Statement .arbSend := of_formatN (by decide) rfl rfl

theorem arbRecv : Statement .arbRecv := of_formatN (by decide) rfl rfl

theorem arbAlloc : Statement .arbAlloc := of_formatN (by decide) rfl rfl

theorem arbNoalloc : Statement .arbNoalloc := of_formatN (by decide) rfl rfl

theorem rxTake : Statement .rxTake := of_formatN (by decide) rfl rfl

theorem arbClear : Statement .arbClear := of_formatN (by decide) rfl rfl

theorem txByte (b : Byte) : Statement (.txByte b) := of_data (by simp [Instr.opcode, dataOpcodes]) rfl

end Sys2Proof.Laws.Encoding
end

