-- ==== Sys2Proof/Laws/Rx.lean ====
section
/-! SUPPORT. One turn of the RX port, by the event it takes and by what the block reads it for. -/

namespace Sys2Proof.Machine

theorem step_rx {s : State} {rest : List Stimulus} (h : s.script = .rx :: rest) :
    step s = .next (State.rxStep { s with script := rest }) := by
  rw [step_cons h]
  rfl

/-- A turn that takes an element of the queue (R61). -/
theorem rxStep_of_cons {s : State} (hr : s.blk.reading = true) {e : RxElem} {q : List RxElem}
    (hq : s.chan.rxq = e :: q) :
    s.rxStep = State.onRxEvent e.event { s with chan := { s.chan with rxq := q } } := by
  rw [rxStep_of_reading hr, rxEvent_of_cons hq, dropRx_of_cons hq]

/-- A turn on an empty queue is a Quiet event (R61). -/
theorem rxStep_of_nil {s : State} (hr : s.blk.reading = true) (hq : s.chan.rxq = []) :
    s.rxStep = s.onRxEvent .quiet := by
  rw [rxStep_of_reading hr, rxEvent_of_nil hq, dropRx_of_nil hq]

/-- All that one turn of the RX port can be (R63). -/
inductive RxCase (s : State) : Prop where
  | notReading (h : s.blk.reading = false) (e : s.rxStep = s)
  | scan (h : s.blk.smode ≠ .idle) (e : s.rxStep = s.dropRx.scanEvent s.chan.rxEvent)
  | size (hs : s.blk.smode = .idle) (h : s.blk.phase = .rReceiveSize)
      (e : s.rxStep = s.dropRx.sizeEvent s.chan.rxEvent)
  | image (hs : s.blk.smode = .idle) (h : s.blk.phase = .rReceiveImage) (hh : s.blk.held = false)
      (e : s.rxStep = s.dropRx.imageEvent s.chan.rxEvent)

theorem rxStep_cases (s : State) : RxCase s := by
  by_cases hr : s.blk.reading = true
  · have e := rxStep_of_reading hr
    by_cases hs : s.blk.smode = .idle
    · by_cases hp : s.blk.phase = .rReceiveSize
      · exact .size hs hp (by rw [e, onRxEvent_of_size (s := s.dropRx) hs hp])
      · have hi : s.blk.phase = .rReceiveImage ∧ s.blk.held = false := by
          simpa [Block.reading, hs, hp] using hr
        exact .image hs hi.1 hi.2 (by rw [e, onRxEvent_of_image (s := s.dropRx) hs hp])
    · exact .scan hs (by rw [e, onRxEvent_of_scan (s := s.dropRx) hs])
  · have hr' := Bool.eq_false_iff.2 hr
    exact .notReading hr' (rxStep_of_not_reading hr')

/-- A scan under way sees a byte (R128). -/
theorem rxStep_scan_byte {s : State} (h : s.blk.smode ≠ .idle) {x : Byte} {q : List RxElem}
    (hq : s.chan.rxq = .byte x :: q) :
    s.rxStep = State.scanByte x { s with chan := { s.chan with rxq := q } } := by
  rw [rxStep_of_cons (reading_of_scan h) hq]
  exact onRxEvent_of_scan (s := { s with chan := { s.chan with rxq := q } }) h _

/-- A scan under way sees an Error (R129). -/
theorem rxStep_scan_error {s : State} (h : s.blk.smode ≠ .idle) {q : List RxElem} (hq : s.chan.rxq = .error :: q) :
    s.rxStep = State.scanUnsuccessful { s with chan := { s.chan with rxq := q } } := by
  rw [rxStep_of_cons (reading_of_scan h) hq]
  exact onRxEvent_of_scan (s := { s with chan := { s.chan with rxq := q } }) h _

/-- A scan under way sees a Quiet (R129). -/
theorem rxStep_scan_quiet {s : State} (h : s.blk.smode ≠ .idle) (hq : s.chan.rxq = []) :
    s.rxStep = s.scanUnsuccessful := by
  rw [rxStep_of_nil (reading_of_scan h) hq, onRxEvent_of_scan h]
  rfl

end Sys2Proof.Machine
end

