-- ==== Sys2Proof/Tests/Slice0.lean ====
section
/-! SUPPORT. The model's own tests, each about one step, and for every obligation with hypotheses a state and operands
that meet them. Expected results come from the examples of spec/'s rules and from 95_test_vectors.md. -/

namespace Sys2Proof.Tests

open Sys2Proof Sys2Proof.Machine

/-! ## Helpers -/

/-- Parameters for the tests: QUANTUM = 10, BASE = 0x1000. -/
def par : Params :=
  { quantumPred := 9, tmoSizeAckReset := 100, tmoSizeOkReset := 100, tmoChunkReset := 50, tmoImageOkReset := 200,
    baseSlot := 0x400 }

/-- The block after reset, the unspecified target bytes all 0. -/
def blank : Block := { Block.reset par 0 with tgt := Vector.replicate tokenMax 0 }

/-- A state around a block: the coming stimuli, the RX queue, and TX transactions that succeed. -/
def around (b : Block) (script : List Stimulus := []) (rxq : List RxElem := []) : State :=
  { par := par, blk := b, chan := { rxq := rxq, tx := [], draws := [.ok, .ok, .ok, .ok], fresh := 1 }, script := script,
    reads := [] }

/-- A state whose next TX transaction fails after `k` bytes. -/
def failing (k : Nat) (b : Block) (script : List Stimulus := []) : State :=
  { around b script with chan := { rxq := [], tx := [], draws := [.err k, .err k], fresh := 1 } }

/-- The block in a phase. -/
def inPhase (p : Phase) : Block := { blank with phase := p }

/-- The block with a scan target. -/
def aimed (s : List Byte) : Block := blank.loadTarget s

/-- A look at the state a step leaves. -/
def see {α : Type} (f : State → α) : Host.Outcome State Fault Refusal → Option α
  | .next s => some (f s)
  | .fault _ => none
  | .refused _ => none

/-- What STATUS reads after a command word. -/
def statusAfter (w : Word) (s : State) : Option Word := see (fun t => t.blk.regRead 0x0C) (step (s.withCommand w))

/-- The bytes sent by a command word. -/
def sentBy (w : Word) (s : State) : Option (List Byte) := see (fun t => t.chan.tx) (step (s.withCommand w))

/-! ## Well-formedness: the one check, a token kind of at most 2 (R82) -/

theorem test_wf_refuses_kind_tokEmit : (Instr.tokEmit 3).wf = false := by decide
theorem test_wf_refuses_kind_scnTok : (Instr.scnTok 0xFF).wf = false := by decide
theorem test_wf_accepts_kind : (Instr.tokEmit 2).wf = true ∧ (Instr.scnTok 0).wf = true := by decide

/-! ## Decoding: one word per command, its bits from the table of R84, RSV then IMM8 then OP -/

theorem test_decode_nop : decode 0b0000000000000000_00000000_00000000 = .ok .nop := by decide
theorem test_decode_crcInit : decode 0b0000000000000000_00000000_00010000 = .ok .crcInit := by decide
theorem test_decode_crcByte : decode 0b0000000000000000_00110001_00010001 = .ok (.crcByte 0x31) := by decide
theorem test_decode_tokEmit : decode 0b0000000000000000_00000001_00100000 = .ok (.tokEmit 1) := by decide
theorem test_decode_scnTok : decode 0b0000000000000000_00000010_00100001 = .ok (.scnTok 2) := by decide
theorem test_decode_scnClr : decode 0b0000000000000000_00000000_00100010 = .ok .scnClr := by decide
theorem test_decode_scnPush : decode 0b0000000000000000_01001111_00100011 = .ok (.scnPush 0x4F) := by decide
theorem test_decode_scnRun : decode 0b0000000000000000_00000000_00100100 = .ok .scnRun := by decide
theorem test_decode_scnRunb : decode 0b0000000000000000_00000000_00100101 = .ok .scnRunb := by decide
theorem test_decode_arbSend : decode 0b0000000000000000_00000000_00110000 = .ok .arbSend := by decide
theorem test_decode_arbRecv : decode 0b0000000000000000_00000000_00110001 = .ok .arbRecv := by decide
theorem test_decode_arbAlloc : decode 0b0000000000000000_00000000_00110010 = .ok .arbAlloc := by decide
theorem test_decode_arbNoalloc : decode 0b0000000000000000_00000000_00110011 = .ok .arbNoalloc := by decide
theorem test_decode_rxTake : decode 0b0000000000000000_00000000_00110100 = .ok .rxTake := by decide
theorem test_decode_arbClear : decode 0b0000000000000000_00000000_00110101 = .ok .arbClear := by decide
theorem test_decode_txByte : decode 0b0000000000000000_01000001_00110110 = .ok (.txByte 0x41) := by decide

theorem test_decode_refuses :
    decode 0x00FF0021 = .error .reservedBits ∧ decode 0x00000300 = .error .reservedBits ∧
      decode 0x00000320 = .error .badKind ∧ decode 0x000000FF = .error .badOpcode ∧
      decode 0x80000000 = .error .reservedBits := by decide

theorem test_encode_words :
    encode (.crcByte 0x31) = 0x00003111 ∧ encode (.tokEmit 2) = 0x00000220 ∧ encode .arbClear = 0x00000035 := by decide

theorem test_decodeTableWord : decodeTableWord 32 0x4136 = some (.txByte 0x41) := by decide

/-! ## One step of each command -/

theorem test_nop : statusAfter 0x00000000 (around { blank with sres := .matched }) = some 0x00000400 := by decide

theorem test_crcInit :
    see (fun t => (t.blk.regRead 0x1C, t.blk.regRead 0x20))
      (step ((around { blank with crcReg := 0x1234 }).withCommand 0x00000010)) = some (0xFFFF, 0x0000) := by decide

/-- "after `crc.init`, `crc.byte 0x31` leaves CRC_REG = 0x2F8D and CRC_OUT = 0xD072" (R105). -/
theorem test_crcByte :
    see (fun t => (t.blk.regRead 0x1C, t.blk.regRead 0x20)) (step ((around blank).withCommand 0x00003111)) =
      some (0x2F8D, 0xD072) := by decide

/-- "ARG = 1, `tok.emit ACK` emits `41 43 4B 28 31 29 0A`" (R122). -/
theorem test_tokEmit :
    sentBy 0x00000120 (around { blank with arg := 1 }) = some [0x41, 0x43, 0x4B, 0x28, 0x31, 0x29, 0x0A] := by decide

theorem test_tokEmit_failed :
    see (fun t => (t.chan.tx, t.blk.regRead 0x50)) (step ((failing 2 { blank with arg := 7 }).withCommand 0x00000220)) =
      some ([0x4F, 0x4B], 1) := by decide

/-- "ARG = 256, `scn.tok RDY` leaves tlen = 9 and tgt = `52 44 59 28 32 35 36 29 0A`" (R123). -/
theorem test_scnTok :
    see (fun t => (t.blk.regRead 0x24, t.blk.target))
      (step ((around { blank with arg := 256, sres := .timedOut }).withCommand 0x00000021)) =
      some (0x00000900, [0x52, 0x44, 0x59, 0x28, 0x32, 0x35, 0x36, 0x29, 0x0A]) := by decide

theorem test_scnClr :
    see (fun t => t.blk.regRead 0x24) (step ((around { aimed [1, 2, 3] with cur := 3 }).withCommand 0x00000022)) =
      some 0 := by decide

theorem test_scnPush :
    see (fun t => (t.blk.regRead 0x24, t.blk.target)) (step ((around (aimed [0x4F])).withCommand 0x00004B23)) =
      some (0x00000200, [0x4F, 0x4B]) := by decide

/-- "The 27th push after a `scn.clr` raises TARGET_FULL and leaves tlen = 26" (R125). -/
theorem test_scnPush_full :
    see (fun t => (t.blk.errcode, t.blk.tlen)) (step ((around { blank with tlen := 26 }).withCommand 0x00004B23)) =
      some (.targetFull, 26) := by decide

/-- "tlen = 0, `scn.run` leaves sres = MATCH and smode = IDLE in the same step" (R126). -/
theorem test_scnRun_empty :
    see (fun t => (t.blk.regRead 0x0C, t.blk.regRead 0x08)) (step ((around blank).withCommand 0x00000024)) =
      some (0x00000400, 0x01) := by decide

theorem test_scnRunb :
    see (fun t => (t.blk.regRead 0x0C, t.blk.regRead 0x28))
      (step ((around { aimed [1] with arg := 0x700000019 }).withCommand 0x00000025)) = some (0x00000200, 25) := by decide

/-- "ARG = 1, `arb.send` leaves PHASE = 0x01, TLEN = 9, SMODE = 1" (R160). -/
theorem test_arbSend :
    see (fun t => (t.blk.regRead 0x0C, t.blk.regRead 0x24, t.blk.len))
      (step ((around { blank with arg := 1 }).withCommand 0x00000030)) = some (0x00000101, 0x00000900, 1) := by decide

/-- "`arb.recv` emits `52 44 59 28 32 35 36 29 0A` and leaves PHASE = 0x13" (R200). -/
theorem test_arbRecv :
    see (fun t => (t.blk.regRead 0x0C, t.chan.tx)) (step ((around blank).withCommand 0x00000031)) =
      some (0x00000013, [0x52, 0x44, 0x59, 0x28, 0x32, 0x35, 0x36, 0x29, 0x0A]) := by decide

/-- "with LEN = 1, `arb.alloc` leaves PHASE = 0x16" (R207). -/
theorem test_arbAlloc : statusAfter 0x00000032 (around { inPhase .rAllocWait with len := 1 }) = some 0x16 := by decide

/-- "LEN = 0 goes straight to ConfirmImage. It emits `OK(0)`" (R207). -/
theorem test_arbAlloc_empty :
    see (fun t => (t.blk.regRead 0x0C, t.chan.tx, t.blk.regRead 0x08))
      (step ((around (inPhase .rAllocWait)).withCommand 0x00000032)) =
      some (0x18, [0x4F, 0x4B, 0x28, 0x30, 0x29, 0x0A], 0x10) := by decide

/-- "`arb.noalloc` in R_ALLOC_WAIT gives STATUS = 0x000000B9" (R208). -/
theorem test_arbNoalloc : statusAfter 0x00000033 (around (inPhase .rAllocWait)) = some 0x000000B9 := by decide

/-- The last take of program P4 of 95_test_vectors.md: TX "ACK(0)\nOK(41973)\n", EXPCRC 0xA3F5. -/
theorem test_rxTake :
    see (fun t => (t.blk.regRead 0x0C, t.blk.regRead 0x48, t.chan.tx))
      (step ((around { inPhase .rReceiveImage with
        len := 1, held := true, rxdata := 0x41, acc := crcUpd 0xFFFF 0x41 }).withCommand 0x00000034)) =
      some (0x18, 0xA3F5, [0x41, 0x43, 0x4B, 0x28, 0x30, 0x29, 0x0A, 0x4F, 0x4B, 0x28, 0x34, 0x31, 0x39, 0x37, 0x33,
        0x29, 0x0A]) := by decide

theorem test_rxTake_nothingHeld :
    see (fun t => t.blk.errcode) (step ((around (inPhase .rReceiveImage)).withCommand 0x00000034)) =
      some .nothingHeld := by decide

/-- "in S_ABORTED with CAUSE = 1, `arb.clear` leaves STATUS[7:0] = 0x00" (R230). -/
theorem test_arbClear :
    see (fun t => ((t.blk.regRead 0x0C).extractLsb' 0 8, t.blk.len))
      (step ((around { inPhase .sAborted with cause := .sizeAckTimeout, len := 5 }).withCommand 0x00000035)) =
      some (0x00, 0) := by decide

/-- "in S_SEND_CHUNK with LEN = 1 and IDX = 0, `tx.byte 0x41` sends 0x41, leaves PHASE = S_AWAIT_CHUNK_ACK and the target
`ACK(0)`" (R172). -/
theorem test_txByte :
    see (fun t => (t.blk.regRead 0x0C, t.blk.target, t.chan.tx, t.blk.regRead 0x28))
      (step ((around { inPhase .sSendChunk with len := 1 }).withCommand 0x00004136)) =
      some (0x206, [0x41, 0x43, 0x4B, 0x28, 0x30, 0x29, 0x0A], [0x41], 50) := by decide

theorem test_txByte_failed :
    see (fun t => (t.blk.regRead 0x0C, t.chan.tx, t.blk.regRead 0x50, t.blk.regRead 0x08))
      (step ((failing 0 { inPhase .sSendChunk with len := 1 }).withCommand 0x00004136)) =
      some (0x89, [], 1, 0x20) := by decide

/-! ## RX steps, registers, stops -/

/-- A mismatch resets the cursor and does not test the byte again (R128). -/
theorem test_naiveRestart :
    see (fun t => t.blk.regRead 0x24)
      (step (around { aimed [0x41, 0x43, 0x4B] with smode := .unbounded, cur := 2 } [.rx] [.byte 0x41])) =
      some 0x00000300 := by decide

/-- The last Quiet of the example of R127: budget 5, QUANTUM 10, TIMEOUT with budget 0. -/
theorem test_timeout :
    see (fun t => (t.blk.regRead 0x0C, t.blk.regRead 0x28))
      (step (around { aimed [0x41] with smode := .bounded, budget := 5 } [.rx])) = some (0x800, 0) := by decide

/-- The end of the S_AWAIT_READY scan of program P3: TX `00 00 00 00 00 00 00 01`, STATUS 0x203, EXPCRC 0x92FA. -/
theorem test_sendSize :
    see (fun t => (t.blk.regRead 0x0C, t.blk.regRead 0x48, t.chan.tx))
      (step (around { ({ inPhase .sAwaitReady with len := 1 } : Block).startScan .rdy 256 .unbounded 0 with cur := 8 }
        [.rx] [.byte 0x0A])) = some (0x203, 0x92FA, [0, 0, 0, 0, 0, 0, 0, 1]) := by decide +kernel

/-- The eighth size byte of program P4: TX "ACK(0)\nOK(37626)\n", STATUS 0x15. -/
theorem test_confirmSize :
    see (fun t => (t.blk.regRead 0x0C, t.blk.regRead 0x48, t.chan.tx))
      (step (around { inPhase .rReceiveSize with off := 7, acc := crcRun 0xFFFF [0, 0, 0, 0, 0, 0, 0] }
        [.rx] [.byte 0x01])) =
      some (0x15, 0x92FA, [0x41, 0x43, 0x4B, 0x28, 0x30, 0x29, 0x0A, 0x4F, 0x4B, 0x28, 0x33, 0x37, 0x36, 0x32, 0x36, 0x29,
        0x0A]) := by decide +kernel

theorem test_checkValue_be8_zero : checksum (be8 0) = 0x8373 := by decide +kernel

/-- The longest token, `tok(ACK, 2^64 - 1)`, has 26 bytes (R121). -/
theorem test_tok_longest : (tok .ack 0xFFFFFFFFFFFFFFFF).length = 26 := by decide

theorem test_id : see (fun t => t.reads) (step (around blank [.readOf .id])) = some [0x54524231] := by decide

theorem test_byte_access_refused : step (around blank [.access ⟨1, 0x0C, .read⟩]) = .refused .undefinedAccess := rfl

theorem test_outside_window_faults : step (around blank [.access ⟨4, 0x100, .read⟩]) = .fault .outsideWindow := rfl

/-- A command placed by withFetchWord is what the very next step after reset runs. -/
theorem test_fetch_from_reset :
    see (fun t => t.blk.crcReg) (step (State.reset.withFetchWord 32 0x3111)) = some 0x2F8D := by decide

/-! ## Witnesses: for each obligation with hypotheses, a state and operands that meet them, clause by clause -/

theorem witness_DecodeOfEncodeIsIdentity :
    (Instr.tokEmit 2).wf = true ∧ (Instr.scnTok 0).wf = true ∧ (Instr.txByte 0xFF).wf = true := by decide

theorem witness_DecodedWordIsItsEncoding :
    decode 0x0000FF36 = .ok (.txByte 0xFF) ∧ decode 0x00000221 = .ok (.scnTok 2) := by decide

theorem witness_DecoderChecksInOrder :
    wordRefusal 0x00FF0021 = some .reservedBits ∧ wordRefusal 0x00000337 = some .badOpcode ∧
      wordRefusal 0x00000300 = some .reservedBits ∧ wordRefusal 0x00000320 = some .badKind ∧
      wordRefusal 0x00000220 = none := by decide

theorem witness_StepRunsTheDecodedCommand :
    (around blank [.commandOf 0x10]).script = .commandOf 0x10 :: [] ∧ decode 0x10 = .ok .crcInit ∧
      decode 0x110 = .error .reservedBits ∧ (around blank).script = [] := by decide

theorem witness_CommandErrorIsPrecise :
    legalityError .crcInit blank = none ∧ (∃ t, exec .crcInit (around blank) = .next t) ∧
      ∃ t, step (around blank [pushInstr .rxTake]) = .next t ∧ t = State.cmdError .wrongPhase (around blank) :=
  ⟨by decide, ⟨_, rfl⟩, _, rfl, rfl⟩

theorem witness_LegalityChecksInOrder :
    wordRefusal 0x00FF0021 = some .reservedBits ∧
      legalityError (.tokEmit 0) (inPhase .sDone) = some .busy ∧
      legalityError (.scnTok 0) { aimed [1] with smode := .bounded } = some .busy ∧
      legalityError (.scnPush 0) { blank with tlen := 26 } = some .targetFull ∧
      legalityError .arbAlloc blank = some .wrongPhase ∧ legalityError .rxTake (inPhase .rAllocWait) = some .wrongPhase ∧
      legalityError .rxTake (inPhase .rReceiveImage) = some .nothingHeld ∧
      legalityError .arbClear (inPhase .sSendChunk) = some .wrongPhase ∧
      legalityError (.txByte 0) (inPhase .sAwaitChunkAck) = some .wrongPhase ∧
      legalityError (.tokEmit 2) { aimed [1] with smode := .bounded } = none ∧
      legalityError .arbClear (inPhase .sAborted) = none ∧ legalityError .scnRunb blank = none := by decide

theorem witness_NopChangesNothing : opField 0x00000300 = 0x00 ∧ (0x00000300 : Word) ≠ 0 := by decide

theorem witness_CrcInitWritesInitialValue :
    (∃ t, exec .crcInit (around blank) = .next t) ∧ opField 0x00000110 = 0x10 ∧ (0x00000110 : Word) ≠ 0x00000010 :=
  ⟨⟨_, rfl⟩, by decide⟩

theorem witness_CrcByteFeedsOneByte : opField 0x00010011 = 0x11 ∧ rsvField 0x00010011 ≠ 0 := by decide

theorem witness_CrcRegChangesOnlyByItsCommands :
    (∃ t, step (around blank [.reset]) = .next t) ∧ (∃ t, step (around blank [pushInstr .crcInit]) = .next t) ∧
      ∃ t, step (around blank [pushInstr (.crcByte 1)]) = .next t := ⟨⟨_, rfl⟩, ⟨_, rfl⟩, ⟨_, rfl⟩⟩

theorem witness_DecWritesTheNumber : (0xFFFFFFFFFFFFFFFF : DWord) ≠ 0 ∧ (10 : DWord) ≠ 0 := by decide

theorem witness_TokensFitAndDiffer : tok .ok 0xFFFF = tok .ok 65535 := rfl

theorem witness_TokEmitSendsTheToken :
    ((2 : Byte), TokKind.ok) ∈ [((0 : Byte), TokKind.rdy), (1, .ack), (2, .ok)] ∧ (around blank).blk.phase = .idle ∧
      (around (inPhase .rHandoff)).blk.phase ≠ .idle ∧ 2 < (3 : Byte).toNat := by decide

theorem witness_ScnTokLoadsTheToken :
    ((0 : Byte), TokKind.rdy) ∈ [((0 : Byte), TokKind.rdy), (1, .ack), (2, .ok)] ∧ (around blank).blk.phase = .idle ∧ (around blank).blk.smode = .idle ∧
      ({ aimed [1] with smode := .unbounded } : Block).smode ≠ .idle ∧ 2 < (3 : Byte).toNat := by decide

theorem witness_ScnClrEmptiesTheTarget :
    (around (aimed [1])).blk.phase = .idle ∧ (around (aimed [1])).blk.smode = .idle ∧
      (around (inPhase .sDone)).blk.phase ≠ .idle := by decide

theorem witness_ScnPushAppendsOneByte :
    ((around { blank with tlen := 25 }).blk.phase = .idle ∧ (around { blank with tlen := 25 }).blk.smode = .idle ∧
      (around { blank with tlen := 25 }).blk.tlen.toNat < tokenMax) ∧
      (around { blank with tlen := 26 }).blk.tlen.toNat = tokenMax ∧
      (around { aimed [1] with smode := .bounded }).blk.smode ≠ .idle := by decide

theorem witness_ScnRunStartsAnUnboundedScan :
    (around (aimed [1])).blk.phase = .idle ∧ (around (aimed [1])).blk.smode = .idle ∧ (around (aimed [1])).blk.tlen ≠ 0 ∧
      (around blank).blk.tlen = 0 ∧ (around (inPhase .rReceiveSize)).blk.phase ≠ .idle := by decide

theorem witness_ScnRunbStartsABoundedScan :
    (around (aimed [1])).blk.phase = .idle ∧ (around (aimed [1])).blk.smode = .idle ∧ (around (aimed [1])).blk.tlen ≠ 0 ∧
      (around blank).blk.tlen = 0 ∧ (around { aimed [1] with smode := .bounded }).blk.smode ≠ .idle := by decide

/-- A scan of three bytes at its first and at its last byte, and a mismatch. -/
theorem witness_ScanByteAdvancesOrRestarts :
    let s := around { aimed [1, 2, 3] with smode := .unbounded } [.rx] [.byte 1]
    let e := around { aimed [1, 2, 3] with smode := .bounded, cur := 2 } [.rx] [.byte 3]
    (s.script = .rx :: [] ∧ s.chan.rxq = .byte 1 :: [] ∧ s.blk.smode ≠ .idle ∧ s.blk.tlen.toNat ≤ tokenMax ∧
      s.blk.cur.toNat < s.blk.tlen.toNat ∧ s.blk.tgt.toList[s.blk.cur.toNat]? = some 1 ∧ s.blk.cur + 1 ≠ s.blk.tlen) ∧
    (e.blk.cur.toNat < e.blk.tlen.toNat ∧ e.blk.tgt.toList[e.blk.cur.toNat]? = some 3 ∧ e.blk.cur + 1 = e.blk.tlen ∧
      e.blk.phase.role ≠ .sender) ∧ (1 : Byte) ≠ 3 := by decide

/-- QUANTUM is 10: a budget of 11 is charged, one of 10 runs out. -/
theorem witness_UnsuccessfulReadChargesTheBudget :
    let s := around { aimed [1] with smode := .bounded, budget := 11 } [.rx] [.error]
    let e := around { aimed [1] with smode := .bounded, budget := 10 } [.rx]
    (s.script = .rx :: [] ∧ s.chan.rxq = .error :: [] ∧ s.blk.smode = .bounded ∧
      s.par.quantum < s.blk.budget.toNat) ∧
    (e.script = .rx :: [] ∧ e.chan.rxq = [] ∧ e.blk.smode = .bounded ∧ e.blk.budget.toNat ≤ e.par.quantum ∧
      e.blk.phase.role ≠ .sender) ∧
    ({ aimed [1] with smode := .unbounded } : Block).smode = .unbounded := by decide

theorem witness_ScanReadsExactlyItsTarget :
    let s := around { aimed [1, 2] with smode := .bounded, budget := 5 } [] (arriving ([1, 2] ++ [7]))
    s.blk.phase = .idle ∧ s.blk.smode ≠ .idle ∧ s.blk.tlen.toNat ≤ tokenMax ∧ s.blk.target = [1, 2] ∧
      ([1, 2] : List Byte) ≠ [] ∧ s.blk.cur = 0 ∧ s.chan.rxq = arriving ([1, 2] ++ [7]) := by decide

theorem witness_GarbageBeforeTheTargetIsSkipped :
    let s := around { aimed [1, 2] with smode := .unbounded } [] (arriving ([2, 9] ++ [1, 2] ++ [7]))
    s.blk.phase = .idle ∧ s.blk.smode ≠ .idle ∧ s.blk.tlen.toNat ≤ tokenMax ∧ s.blk.target = [1, 2] ∧
      ([1, 2] : List Byte).head? = some 1 ∧ (1 : Byte) ∉ ([2, 9] : List Byte) ∧ s.blk.cur = 0 ∧
      s.chan.rxq = arriving ([2, 9] ++ [1, 2] ++ [7]) := by decide

/-- The example of R134: the target `ACK(1)` and the stream "AC" ++ "ACK(1)\n". -/
theorem witness_NaiveRestartMissesAnOverlap :
    let s := around { aimed (tok .ack 1) with smode := .unbounded } [] (arriving ((tok .ack 1).take 2 ++ tok .ack 1))
    s.blk.phase = .idle ∧ s.blk.smode ≠ .idle ∧ s.blk.tlen.toNat ≤ tokenMax ∧ s.blk.target = tok .ack 1 ∧
      s.blk.cur = 0 ∧ 0 < 2 ∧ 2 < (tok .ack 1).length ∧
      s.chan.rxq = arriving ((tok .ack 1).take 2 ++ tok .ack 1) := by decide

/-- Budget 25 over QUANTUM 10 takes three unsuccessful reads; budget 0 takes one. -/
theorem witness_BoundedScanTimesOutOnSchedule :
    let s := around { aimed [1] with smode := .bounded, budget := 25 } [] (List.replicate 2 .error)
    let e := around { aimed [1] with smode := .bounded, budget := 0 } [] (List.replicate 0 .error)
    (s.blk.phase = .idle ∧ s.blk.smode = .bounded ∧ s.chan.rxq = List.replicate 2 .error ∧
      3 = max 1 ((s.blk.budget.toNat + s.par.quantum - 1) / s.par.quantum)) ∧
    (e.blk.phase = .idle ∧ e.blk.smode = .bounded ∧ e.chan.rxq = List.replicate 0 .error ∧
      1 = max 1 ((e.blk.budget.toNat + e.par.quantum - 1) / e.par.quantum)) := by decide

theorem witness_ArbSendStartsTheSender :
    (around blank).blk.phase = .idle ∧ (around blank).blk.smode = .idle ∧ (inPhase .sDone).phase ≠ .idle := by decide

/-- One state for each clause: chunk 0 of two, and the last chunk, of an image of 257 bytes. -/
theorem witness_SenderReactsToMatch :
    (inPhase .sAwaitReady).phase = .sAwaitReady ∧ (around (inPhase .sAwaitReady)).chan.draw = .ok ∧
      (failing 3 (inPhase .sAwaitReady)).chan.draw = .err 3 ∧ (inPhase .sAwaitSizeAck).phase = .sAwaitSizeAck ∧
      ({ inPhase .sAwaitSizeOk with len := 1 } : Block).len ≠ 0 ∧ (inPhase .sAwaitSizeOk).len = 0 ∧
      (0 : DWord) + 1 < nchunks 257 ∧ ¬ (1 : DWord) + 1 < nchunks 257 ∧
      (inPhase .sAwaitImageOk).phase = .sAwaitImageOk := by decide

theorem witness_SenderReactsToTimeout :
    (Phase.sAwaitSizeOk, Cause.sizeOkTimeout) ∈
        [(Phase.sAwaitSizeAck, Cause.sizeAckTimeout), (.sAwaitSizeOk, .sizeOkTimeout),
          (.sAwaitImageOk, .imageOkTimeout)] ∧
      (around (inPhase .sAwaitSizeOk)).blk.phase = .sAwaitSizeOk ∧
      (around (inPhase .sAwaitChunkAck)).blk.phase = .sAwaitChunkAck := by decide

/-- Offsets 254 and 255 of chunk 0 of an image of 257 bytes. -/
theorem witness_TxByteSendsOneByte :
    let s := around { inPhase .sSendChunk with len := 257, off := 254 }
    let e := around { inPhase .sSendChunk with len := 257, off := 255 }
    (around blank).blk.phase = .idle ∧
      (s.blk.phase = .sSendChunk ∧ s.chan.draw = .ok ∧ s.blk.off + 1 ≠ chunkEnd s.blk.len s.blk.idx) ∧
      (e.blk.phase = .sSendChunk ∧ e.chan.draw = .ok ∧ e.blk.off + 1 = chunkEnd e.blk.len e.blk.idx) ∧
      (failing 0 e.blk).chan.draw = .err 0 ∧ (inPhase .rReceiveSize).phase ≠ .idle ∧
      (inPhase .rReceiveSize).phase ≠ .sSendChunk := by decide

theorem witness_ChunksCoverTheImage :
    (0 : DWord) < nchunks 257 ∧ (0 : DWord) + 1 < nchunks 257 ∧ (1 : DWord) < nchunks 257 ∧
      ¬ (1 : DWord) + 1 < nchunks 257 ∧ (0xFFFFFFFFFFFFFF : DWord) < nchunks 0xFFFFFFFFFFFFFFFF := by decide

theorem witness_ArbRecvRequestsTheImage :
    (around blank).blk.phase = .idle ∧ (around blank).blk.smode = .idle ∧
      (around { aimed [1] with smode := .bounded }).blk.smode ≠ .idle := by decide

theorem witness_SizeFieldIsReceivedAndConfirmed :
    let s := around { inPhase .rReceiveSize with off := 6 } [.rx] [.byte 1]
    let e := around { inPhase .rReceiveSize with off := 7 } [.rx] [.byte 1]
    (s.script = .rx :: [] ∧ s.blk.phase = .rReceiveSize ∧ s.blk.smode = .idle ∧ s.chan.rxq = .byte 1 :: [] ∧
      s.blk.off + 1 ≠ 8) ∧
    (e.script = .rx :: [] ∧ e.blk.phase = .rReceiveSize ∧ e.blk.smode = .idle ∧ e.chan.rxq = .byte 1 :: [] ∧
      e.blk.off + 1 = 8) ∧
    (around (inPhase .rReceiveSize) [.rx] [.error]).chan.rxq = .error :: [] ∧
    (around (inPhase .rReceiveSize) [.rx]).chan.rxq = [] := by decide

theorem witness_SizeFieldDecodesBigEndian :
    let bytes : List Byte := [0x80, 0, 0, 0, 0, 0, 1, 2]
    let s := around { inPhase .rReceiveSize with len := 5 } [] (arriving bytes ++ [.error])
    s.blk.phase = .rReceiveSize ∧ s.blk.smode = .idle ∧ s.blk.off = 0 ∧ s.blk.acc = 0xFFFF ∧ bytes.length = 8 ∧
      s.chan.rxq = arriving bytes ++ [.error] := by decide

theorem witness_ArbAllocOpensTheImage :
    ({ inPhase .rAllocWait with len := 1 } : Block).phase = .rAllocWait ∧
      ({ inPhase .rAllocWait with len := 1 } : Block).len ≠ 0 ∧ (inPhase .rAllocWait).len = 0 ∧
      (inPhase .rReceiveImage).phase ≠ .rAllocWait := by decide

theorem witness_ArbNoallocHaltsTheReceiver :
    let s := around (inPhase .rAllocWait)
    (s.blk.phase = .rAllocWait ∧ s.blk.smode = .idle ∧ s.blk.sres = .none ∧ s.blk.held = false ∧
      s.blk.errcode = .none) ∧ (∃ t, exec .arbNoalloc s = .next t) ∧ (inPhase .idle).phase ≠ .rAllocWait :=
  ⟨by decide, ⟨_, rfl⟩, by decide⟩

theorem witness_ImageByteIsHeldForTheController :
    let s := around (inPhase .rReceiveImage) [.rx] [.byte 1]
    (s.script = .rx :: [] ∧ s.blk.phase = .rReceiveImage ∧ s.blk.smode = .idle ∧ s.blk.held = false ∧
      s.chan.rxq = .byte 1 :: []) ∧ (around (inPhase .rReceiveImage) [.rx] [.error]).chan.rxq = .error :: [] ∧
      (around (inPhase .rReceiveImage) [.rx]).chan.rxq = [] ∧
      (around { inPhase .rReceiveImage with held := true } [.rx]).blk.held = true := by decide

/-- The last byte of chunk 0, the last byte of the image, and a byte inside a chunk, of 257 bytes. -/
theorem witness_RxTakeReleasesTheByte :
    let s : Block := { inPhase .rReceiveImage with held := true, len := 257, off := 7 }
    let e : Block := { inPhase .rReceiveImage with held := true, len := 257, off := 255 }
    let f : Block := { inPhase .rReceiveImage with held := true, len := 257, off := 256, idx := 1 }
    (s.phase = .rReceiveImage ∧ s.held = true ∧ s.off + 1 ≠ chunkEnd s.len s.idx) ∧
      (e.phase = .rReceiveImage ∧ e.held = true ∧ e.off + 1 = chunkEnd e.len e.idx ∧ e.off + 1 ≠ e.len) ∧
      (f.phase = .rReceiveImage ∧ f.held = true ∧ f.off + 1 = chunkEnd f.len f.idx ∧ f.off + 1 = f.len) ∧
      (inPhase .rReceiveImage).held = false ∧ (inPhase .idle).phase ≠ .rReceiveImage := by decide

theorem witness_ArbClearReturnsToIdle :
    (inPhase .rHalted).phase ∈ [Phase.idle, .sDone, .sAborted, .rHandoff, .rHalted] ∧
      (inPhase .sSendChunk).phase ∉ [Phase.idle, .sDone, .sAborted, .rHandoff, .rHalted] := by decide

theorem witness_PendingBitsClearOnlyByWrite :
    let b : Block := { blank with irqPend := 0x81 }
    b.pending .scanDone = true ∧ b.pending .restart = true ∧
      (∃ t, step (around b [pushInstr .nop]) = .next t) ∧ (∃ t, step (around b [.reset]) = .next t) ∧
      ∃ t, step (around b [.writeOf .irqPend 0x80]) = .next t := ⟨rfl, rfl, ⟨_, rfl⟩, ⟨_, rfl⟩, ⟨_, rfl⟩⟩

theorem witness_InterruptRegistersAndLine :
    (around blank [.writeOf .irqPend 0x1FF]).script = .writeOf .irqPend 0x1FF :: [] ∧
      (around blank [.writeOf .irqEn 0x1FF]).script = .writeOf .irqEn 0x1FF :: [] ∧
      (∃ t, exec .arbClear (around { blank with irqPend := 0x80 }) = .next t) ∧
      ({ blank with irqPend := 0x80 } : Block).pending .restart = true := ⟨rfl, rfl, ⟨_, rfl⟩, rfl⟩

theorem witness_RegisterMapReads :
    (0x64 ≤ 0x64 ∧ 0x64 ≤ 0xFC ∧ 0x64 % 4 = 0) ∧ 0x64 ≤ 0xFC ∧ 0xFC ≤ 0xFC ∧ 0xFC % 4 = 0 := by decide

theorem witness_ReadsChangeNoBlockState :
    (around blank [.access ⟨4, 0xFC, .read⟩]).script = .access ⟨4, 0xFC, .read⟩ :: [] ∧ 0xFC % 4 = 0 ∧
      0xFC < 0x100 := by decide

theorem witness_WritesChangeOnlyTheirRegister :
    (around blank [.access ⟨4, 0x14, .write 5⟩]).script = .access ⟨4, 0x14, .write 5⟩ :: [] ∧ 0x14 % 4 = 0 ∧
      0x14 < 0x100 ∧ 0x14 ≠ 0x10 ∧ 0xFC ∉ [0x04, 0x08, 0x14, 0x18, 0x54, 0x58, 0x5C, 0x60] := by decide

theorem witness_UndefinedAccessIsRefused :
    (around blank [.access ⟨2, 0x14, .read⟩]).script = .access ⟨2, 0x14, .read⟩ :: [] ∧
      (⟨2, 0x14, .read⟩ : Access).width ≠ 4 ∧ (⟨4, 0x15, .read⟩ : Access).address par % 4 ≠ 0 ∧
      (⟨4, 0x14, .read⟩ : Access).address par % 4 = 0 := by decide

theorem witness_ControllerRegistersChangeOnlyByWrites :
    (∃ t, step (around blank [.writeOf .argHi 5]) = .next t) ∧
      ∃ t, step (around blank [.writeOf .tmoChunk 5]) = .next t := ⟨⟨_, rfl⟩, ⟨_, rfl⟩⟩

theorem witness_ResetWritesEveryElement :
    (around (inPhase .sSendChunk) [.reset]).script = .reset :: [] := by decide

theorem witness_ResetLeavesTheChannel :
    (around (inPhase .rReceiveSize) [.reset] [.byte 1]).script = .reset :: [] ∧
      (around blank [.rx] [.byte 1]).script = .rx :: [] ∧ blank.phase = .idle ∧ blank.smode = .idle := by decide

/-- Reset meets the invariant also with the tests' parameters and target bytes. -/
theorem blank_inv : blank.Inv :=
  ⟨by decide, by decide, by decide, by decide, by decide, by decide, trivial, trivial, rfl⟩

/-- A sender inside the one chunk of the image "A". -/
def sending : Block := { inPhase .sSendChunk with len := 1 }

theorem sending_inv : sending.Inv :=
  ⟨by decide, by decide, by decide, by decide, by decide, by decide, rfl, ⟨by decide, by decide, by decide⟩, rfl⟩

/-- A receiver that holds the one byte of the image "A". -/
def holding : Block :=
  { inPhase .rReceiveImage with len := 1, held := true, rxdata := 0x41, acc := crcUpd 0xFFFF 0x41 }

theorem holding_inv : holding.Inv :=
  ⟨by decide, by decide, by decide, by decide, by decide, by decide, rfl, ⟨by decide, by decide, by decide⟩, rfl⟩

/-- A standalone bounded scan. -/
def scanning : Block := { aimed [1, 2] with smode := .bounded, budget := 5, cur := 1 }

theorem scanning_inv : scanning.Inv :=
  ⟨by decide, by decide, by decide, by decide, by decide, by decide, trivial, trivial, rfl⟩

theorem witness_RxStepConsumesOneEvent :
    (scanning.Inv ∧ scanning.smode ≠ .idle) ∧ (∃ t, step (around scanning [.rx] [.byte 1]) = .next t) ∧
      (∃ t, step (around blank [.append .error]) = .next t) ∧ (∃ t, step (around blank [pushInstr .nop]) = .next t) ∧
      (around holding [.rx]).blk.reading = false :=
  ⟨⟨scanning_inv, by decide⟩, ⟨_, rfl⟩, ⟨_, rfl⟩, ⟨_, rfl⟩, by decide⟩

theorem witness_TxStreamOnlyGrows :
    (∃ t, step (around sending [pushInstr (.txByte 0x41)]) = .next t) ∧
      (around blank).chan.draws = .ok :: [.ok, .ok, .ok] ∧ (failing 2 blank).chan.draws = .err 2 :: [.err 2] ∧
      ([7, 8] : List Byte).length ≤ 2 := ⟨⟨_, rfl⟩, rfl, rfl, by decide⟩

theorem witness_EveryStepKeepsTheInvariant :
    sending.Inv ∧ ∃ t, step (around sending [pushInstr (.txByte 0x41)]) = .next t := ⟨sending_inv, _, rfl⟩

theorem witness_PhasesFollowTheProtocol :
    (sending.Inv ∧ (∃ t, step (around sending [pushInstr (.txByte 0x41)]) = .next t) ∧
      (around sending [pushInstr (.txByte 0x41)]).script.head? ≠ some .reset ∧ sending.phase = .sSendChunk) ∧
    (inPhase .rHandoff).phase.terminal = true ∧ (inPhase .rHandoff).phase ≠ .idle ∧
    ∃ t, step (around (inPhase .rHandoff) [pushInstr .arbClear]) = .next t ∧ t.blk.phase ≠ .rHandoff :=
  ⟨⟨sending_inv, ⟨_, rfl⟩, by decide, rfl⟩, rfl, by decide, _, rfl, by decide⟩

theorem witness_SenderChecksumIsOfTheImage :
    let s := around sending [pushInstr (.txByte 0x41)]
    s.blk.Inv ∧ SenderSum [0x41] s.blk ∧ SenderDuty [0x41] s ∧ ∃ t, step s = .next t := by
  refine ⟨sending_inv, ⟨rfl, by decide, by decide⟩, ⟨fun h => absurd h (by decide), fun x h _ => ?_⟩, _, rfl⟩
  have hx : pushInstr (.txByte 0x41) = pushInstr (.txByte x) := Option.some.inj h
  have hw : encode (.txByte 0x41) = encode (.txByte x) := by
    simpa [pushInstr, Stimulus.commandOf, Stimulus.writeOf] using hx
  have hi := congrArg immField hw
  simp only [encode, immField_commandWord, Instr.imm8] at hi
  rw [← hi]
  rfl

theorem witness_ReceiverChecksumIsOfTheBuffer :
    let s := around holding [pushInstr .rxTake]
    s.blk.Inv ∧ ReceiverSum (fun _ => 0x41) s.blk ∧ ReceiverDuty (fun _ => 0x41) s ∧ (∃ t, step s = .next t) ∧
      holding.held = true :=
  ⟨holding_inv, ⟨by decide, by decide⟩, fun _ _ _ => rfl, ⟨_, rfl⟩, rfl⟩

theorem witness_ReceiverProgressIgnoresTxFailures :
    let s := around holding [pushInstr .rxTake]
    let u := failing 3 holding [pushInstr .rxTake]
    (s.par = u.par ∧ s.script = u.script ∧ s.chan.rxq = u.chan.rxq ∧
      ({ s.blk with txerrs := 0 } : Block) = { u.blk with txerrs := 0 } ∧ s.blk.phase.role = .receiver ∧
      s.script.head? ≠ some .reset) ∧ (∃ t, step s = .next t) ∧ (∃ t, step u = .next t) ∧
      (around blank [pushInstr .arbRecv]).script.head? = some (pushInstr .arbRecv) :=
  ⟨⟨rfl, rfl, rfl, rfl, by decide, by decide⟩, ⟨_, rfl⟩, ⟨_, rfl⟩, rfl⟩

/-- An end that has sent one byte, in a system with nothing delivered yet. -/
def sent : State := { around sending with chan := { rxq := [], tx := [0x41], draws := [], fresh := 1 } }

/-- Two such ends over a channel. -/
def pair (c : ChannelKind) : Link := { channel := c, host := sent, firmware := sent, hostSent := 0, firmwareSent := 0 }

/-- "inserts `Error` never" (R77). -/
theorem test_ideal_inserts_no_error : (pair .ideal).move (.insertToHost .error) = .next (pair .ideal) := rfl

theorem witness_InstancesMeetOnlyInTheChannel :
    (∃ m, (pair .ideal).move (.host (.access ⟨4, 0x0C, .read⟩)) = .next m) ∧
      (∃ m, (pair .ideal).move (.firmware .reset) = .next m) ∧
      (pair .ideal).host.chan.tx[(pair .ideal).hostSent]? = some 0x41 ∧
      (pair .ideal).firmware.chan.tx[(pair .ideal).firmwareSent]? = some 0x41 ∧
      ({ pair .ideal with hostSent := 1, firmwareSent := 1 } : Link).host.chan.tx.length ≤ 1 ∧
      (pair .ideal).channel = .ideal ∧ (pair .any).channel = .any ∧
      (∃ m, (pair .ideal).move .carryToHost = .next m) ∧ (pair .ideal).hostSent ≤ (pair .ideal).host.chan.tx.length :=
  ⟨⟨_, rfl⟩, ⟨_, rfl⟩, rfl, rfl, by decide, rfl, rfl, ⟨_, rfl⟩, by decide⟩

end Sys2Proof.Tests
end

namespace Sys2Proof.Machine

/-! ## The decimal codec read back, and tokens told apart -/

theorem digitByte_value {d : Nat} (h : d < 10) : (digitByte d).toNat - 0x30 = d := by
  simp only [digitByte, BitVec.toNat_ofNat]
  omega

theorem decimalValue_append_digit (s : List Byte) {d : Nat} (h : d < 10) :
    decimalValue (s ++ [digitByte d]) = 10 * decimalValue s + d := by
  simp only [decimalValue, List.foldl_append, List.foldl_cons, List.foldl_nil, digitByte_value h]

/-- The loop of R120 writes every number that has no more digits than the loop has turns. -/
theorem decimalValue_decDigits {fuel n : Nat} (h : n < 10 ^ fuel) : decimalValue (decDigits fuel n) = n := by
  induction fuel generalizing n with
  | zero => simp_all [decDigits, decimalValue]
  | succ fuel ih =>
    by_cases hn : n = 0
    · simp [decDigits, hn, decimalValue]
    · have hq : n / 10 < 10 ^ fuel := by rw [Nat.pow_succ] at h; omega
      rw [decDigits, if_neg hn, decimalValue_append_digit _ (Nat.mod_lt n (by decide)), ih hq, Nat.div_add_mod]

/-- Reading `dec(n)` back gives `n` (R120). -/
theorem decimalValue_dec (n : DWord) : decimalValue (dec n) = n.toNat := by
  by_cases h : n = 0
  · rw [h]
    rfl
  · rw [dec, if_neg h]
    exact decimalValue_decDigits (Nat.lt_trans n.isLt (by decide))

theorem dec_injective : Function.Injective dec := fun n m h =>
  BitVec.eq_of_toNat_eq (by rw [← decimalValue_dec n, ← decimalValue_dec m, h])

/-- A token's first byte tells its kind (R121). -/
theorem kind_eq_of_tok_eq {k l : TokKind} {n m : DWord} (h : tok k n = tok l m) : k = l := by
  have hd : k.opening.head? = l.opening.head? := by
    have := congrArg List.head? h
    cases k <;> cases l <;> exact this
  revert hd
  cases k <;> cases l <;> decide

theorem number_eq_of_tok_eq {k : TokKind} {n m : DWord} (h : tok k n = tok k m) : n = m :=
  dec_injective (List.append_cancel_left (List.append_cancel_right h))

/-- A token has at least one digit, so at least 6 bytes (R121). -/
theorem le_tok_length (k : TokKind) (n : DWord) : 6 ≤ (tok k n).length := by
  have hd := dec_length_pos n
  have hk : 3 ≤ k.opening.length := by cases k <;> decide
  rw [tok_length]
  omega

/-- Settles O16: the first byte tells the kind, and the digits, read back, the number. -/
theorem tokensFitAndDiffer : Obligations.TokensFitAndDiffer := by
  refine ⟨fun n => ⟨rfl, rfl, rfl⟩, fun k n => ⟨le_tok_length k n, tok_length_le k n⟩, fun k l n m h => ?_⟩
  obtain rfl := kind_eq_of_tok_eq h
  exact ⟨rfl, number_eq_of_tok_eq h⟩

/-! ## The sender's reaction to TIMEOUT -/

theorem satInc32_toNat (x : Word) : (satInc32 x).toNat = min (x.toNat + 1) 0xFFFFFFFF := by
  unfold satInc32
  split <;> bv_omega

/-- `scan_end(TIMEOUT)` followed by `abort(c)` (R130, R164): bits SCAN_DONE and ABORT become pending. -/
theorem Block.abort_closeScan (c : Cause) (b : Block) :
    (b.closeScan .timedOut).abort c = { b with
      phase := .sAborted, cause := c, smode := .idle, sres := .timedOut, irqPend := b.irqPend ||| 0x21 } := by
  rw [show (0x21 : Byte) = Irq.scanDone.mask ||| Irq.abort.mask from rfl, ← BitVec.or_assoc]
  rfl

/-- `scan_end(TIMEOUT)` followed by the retransmission (R130, R166): bits SCAN_DONE and CHUNK_REQ become pending. -/
theorem Block.retransmit_closeScan (b : Block) :
    (b.closeScan .timedOut).retransmit = { b with
      phase := .sSendChunk, acc := b.snap, off := chunkStart b.idx, retries := satInc32 b.retries, smode := .idle,
      sres := .timedOut, irqPend := b.irqPend ||| 0x03 } := by
  rw [show (0x03 : Byte) = Irq.scanDone.mask ||| Irq.chunkReq.mask from rfl, ← BitVec.or_assoc]
  rfl

/-- A TIMEOUT in a wait whose reaction is `abort(c)` (R166). -/
theorem scanEnd_timedOut_of_abort {s : State} {c : Cause} (hr : s.blk.phase.role = .sender)
    (ht : (s.blk.closeScan .timedOut).onTimeout = (s.blk.closeScan .timedOut).abort c) :
    s.scanEnd .timedOut = { s with
      blk := { s.blk with
        phase := .sAborted, cause := c, smode := .idle, sres := .timedOut, irqPend := s.blk.irqPend ||| 0x21 } } := by
  rw [scanEnd_timedOut_of_sender hr, State.mapBlk_mapBlk, State.mapBlk, ht, Block.abort_closeScan]

/-- A TIMEOUT in the wait for a chunk's ACK (R166). -/
theorem scanEnd_timedOut_chunkAck {s : State} (h : s.blk.phase = .sAwaitChunkAck) :
    s.scanEnd .timedOut = { s with
      blk := { s.blk with
        phase := .sSendChunk, acc := s.blk.snap, off := chunkStart s.blk.idx, retries := satInc32 s.blk.retries,
        smode := .idle, sres := .timedOut, irqPend := s.blk.irqPend ||| 0x03 } } := by
  have hr : s.blk.phase.role = .sender := by rw [h]; rfl
  have ht := onTimeout_chunkAck (b := s.blk.closeScan .timedOut) h
  rw [scanEnd_timedOut_of_sender hr, State.mapBlk_mapBlk, State.mapBlk, ht, Block.retransmit_closeScan]

/-- Settles O31. -/
theorem senderReactsToTimeout : Obligations.SenderReactsToTimeout := by
  refine fun s => ⟨fun p c hpc hp => ?_, scanEnd_timedOut_chunkAck, satInc32_toNat _⟩
  simp only [List.mem_cons, Prod.mk.injEq, List.not_mem_nil, or_false] at hpc
  obtain ⟨rfl, rfl⟩ | ⟨rfl, rfl⟩ | ⟨rfl, rfl⟩ := hpc
  · exact scanEnd_timedOut_of_abort (by rw [hp]; rfl) (onTimeout_sizeAck hp)
  · exact scanEnd_timedOut_of_abort (by rw [hp]; rfl) (onTimeout_sizeOk hp)
  · exact scanEnd_timedOut_of_abort (by rw [hp]; rfl) (onTimeout_imageOk hp)

/-! ## A bounded scan that meets no byte -/

/-- A turn of a running scan while no byte arrives is an unsuccessful read, an Error or a Quiet (R61, R129). -/
theorem rxStep_scan_no_byte {s : State} (h : s.blk.smode ≠ .idle) {errors : Nat}
    (hq : s.chan.rxq = List.replicate errors .error) : s.rxStep = s.dropRx.scanUnsuccessful := by
  cases errors with
  | zero => rw [rxStep_scan_quiet h hq, dropRx_of_nil hq]
  | succ errors => rw [rxStep_scan_error h hq, dropRx_of_cons hq]

/-- An unsuccessful read that leaves time is charged to the budget (R129). -/
theorem rxStep_charge_of_more {s : State} (hb : s.blk.smode = .bounded) {errors : Nat}
    (hq : s.chan.rxq = List.replicate errors .error) (h : s.par.quantum < s.blk.budget.toNat) :
    s.rxStep = s.dropRx.mapBlk fun b => { b with budget := b.budget - BitVec.ofNat 32 s.par.quantum } := by
  rw [rxStep_scan_no_byte (by simp [hb]) hq, scanUnsuccessful_of_bounded (s := s.dropRx) hb]
  exact chargeBudget_of_more (s := s.dropRx) (Nat.not_le.2 h)

/-- An unsuccessful read that takes the rest of the budget ends a standalone scan (R129, R130). -/
theorem rxStep_charge_of_exhausted {s : State} (hp : s.blk.phase = .idle) (hb : s.blk.smode = .bounded) {errors : Nat}
    (hq : s.chan.rxq = List.replicate errors .error) (h : s.blk.budget.toNat ≤ s.par.quantum) :
    s.rxStep = s.dropRx.mapBlk fun b => Block.closeScan .timedOut { b with budget := 0 } := by
  rw [rxStep_scan_no_byte (by simp [hb]) hq, scanUnsuccessful_of_bounded (s := s.dropRx) hb,
    chargeBudget_of_exhausted (s := s.dropRx) h]
  exact scanEnd_of_no_wait (by simp [hp, Phase.scanWait]) .timedOut

/-- The state after `m` turns of a bounded scan that times out later and meets no byte (R129, R135). -/
def State.waited (s : State) (errors m : Nat) : State :=
  { s with
    chan := { s.chan with rxq := List.replicate (errors - m) .error }
    blk := { s.blk with budget := BitVec.ofNat 32 (s.blk.budget.toNat - m * s.par.quantum) } }

theorem State.waited_zero {s : State} {errors : Nat} (hq : s.chan.rxq = List.replicate errors .error) :
    s.waited errors 0 = s := by
  simp [State.waited, ← hq]

theorem State.waited_budget (s : State) (errors m : Nat) :
    (s.waited errors m).blk.budget.toNat = s.blk.budget.toNat - m * s.par.quantum := by
  simp only [State.waited, BitVec.toNat_ofNat]
  omega

/-- One more charge of QUANTUM against a budget that outlasts it (R129). -/
theorem budget_sub_quantum {b : Word} {m q : Nat} (h : (m + 1) * q < b.toNat) :
    BitVec.ofNat 32 (b.toNat - m * q) - BitVec.ofNat 32 q = BitVec.ofNat 32 (b.toNat - (m + 1) * q) := by
  have hb := b.isLt
  rw [Nat.succ_mul] at h ⊢
  apply BitVec.eq_of_toNat_eq
  simp only [BitVec.toNat_sub, BitVec.toNat_ofNat]
  omega

/-- A turn that leaves time: one more turn waited (R129). -/
theorem State.rxStep_waited {s : State} {errors m : Nat} (hb : s.blk.smode = .bounded)
    (h : (m + 1) * s.par.quantum < s.blk.budget.toNat) :
    (s.waited errors m).rxStep = s.waited errors (m + 1) := by
  have hmore : s.par.quantum < (s.waited errors m).blk.budget.toNat := by
    rw [State.waited_budget]
    rw [Nat.succ_mul] at h
    omega
  rw [rxStep_charge_of_more (s := s.waited errors m) hb rfl hmore, State.waited, State.waited,
    ← budget_sub_quantum h, State.dropRx, State.mapBlk, List.tail_replicate, Nat.sub_sub]

/-- The turn that exhausts the budget (R129, R130). -/
theorem State.rxStep_waited_last {s : State} {errors m : Nat} (hp : s.blk.phase = .idle)
    (hb : s.blk.smode = .bounded) (h : s.blk.budget.toNat ≤ (m + 1) * s.par.quantum) :
    (s.waited errors m).rxStep.blk =
      { s.blk with budget := 0, sres := .timedOut, smode := .idle, irqPend := s.blk.irqPend ||| 0x01 } := by
  have hlast : (s.waited errors m).blk.budget.toNat ≤ s.par.quantum := by
    rw [State.waited_budget]
    rw [Nat.succ_mul] at h
    omega
  rw [rxStep_charge_of_exhausted (s := s.waited errors m) hp hb rfl hlast]
  rfl

/-- Every turn before the one that exhausts the budget leaves the scan waiting (R135). -/
theorem State.rxTurns_waited {s : State} {errors m : Nat} (hb : s.blk.smode = .bounded)
    (hq : s.chan.rxq = List.replicate errors .error) (h : m = 0 ∨ m * s.par.quantum < s.blk.budget.toNat) :
    s.rxTurns m = s.waited errors m := by
  induction m with
  | zero => exact (State.waited_zero hq).symm
  | succ m ih =>
    have hlt : (m + 1) * s.par.quantum < s.blk.budget.toNat := h.resolve_left (Nat.succ_ne_zero m)
    have hm : m * s.par.quantum < s.blk.budget.toNat :=
      Nat.lt_of_le_of_lt (Nat.mul_le_mul_right _ (Nat.le_succ m)) hlt
    rw [rxTurns_add, ih (.inr hm)]
    exact State.rxStep_waited hb hlt

/-- `m < max(1, ceil(b / q))` without the division. -/
theorem lt_scheduledReads_iff {m b q : Nat} (hq : 0 < q) :
    m < max 1 ((b + q - 1) / q) ↔ m = 0 ∨ m * q < b := by
  have hd : m < (b + q - 1) / q ↔ m * q < b := by
    rw [← Nat.succ_le_iff, Nat.le_div_iff_mul_le hq, Nat.succ_mul]
    omega
  rw [lt_max_iff, hd, Nat.lt_one_iff]

/-- Settles O28: a turn before the last leaves the scan waiting, and the last one exhausts the budget. -/
theorem boundedScanTimesOutOnSchedule : Obligations.BoundedScanTimesOutOnSchedule := by
  intro s errors n hp hb hq hn
  have hlt (m : Nat) : m < n ↔ m = 0 ∨ m * s.par.quantum < s.blk.budget.toNat := by
    rw [hn]
    exact lt_scheduledReads_iff (Nat.succ_pos _)
  refine ⟨fun m hm => by rw [State.rxTurns_waited hb hq ((hlt m).1 hm)]; rfl, ?_⟩
  obtain ⟨k, rfl⟩ : ∃ k, n = k + 1 := Nat.exists_eq_succ_of_ne_zero (by omega)
  have hlast : s.blk.budget.toNat ≤ (k + 1) * s.par.quantum := by
    have := mt (hlt (k + 1)).2 (Nat.lt_irrefl _)
    omega
  rw [rxTurns_add, State.rxTurns_waited hb hq ((hlt k).1 (Nat.lt_succ_self k))]
  exact State.rxStep_waited_last hp hb hlast

/-! ## The system of two ends -/

/-- The TX stream only grows, by any step (R62). -/
theorem step_tx_grows {s t : State} (h : step s = .next t) : ∃ sent, t.chan.tx = s.chan.tx ++ sent := by
  cases step_cases h with
  | still _ e => exact ⟨[], by simp [e]⟩
  | append _ _ _ e => exact ⟨[], by simp [e]⟩
  | rx rest _ e =>
    obtain ⟨sent, hsent⟩ := (rxStep_frame { s with script := rest }).tx
    refine ⟨sent, ?_⟩
    rw [e, hsent]
    split <;> rfl
  | reset _ _ e => exact ⟨[], by simp [e]⟩
  | read _ _ _ _ e => exact ⟨[], by simp [e]⟩
  | command w rest _ e =>
    obtain ⟨u, hu, hf⟩ := command_frame w { s with script := rest }
    rw [hu] at e
    obtain rfl : u = t := Host.Outcome.next.inj e
    exact hf.tx
  | write _ _ _ _ _ _ _ _ e => exact ⟨[], by simp [e]⟩
  | writeReserved _ _ _ _ _ _ e => exact ⟨[], by simp [e]⟩

theorem step_tx_length_le {s t : State} (h : step s = .next t) : s.chan.tx.length ≤ t.chan.tx.length := by
  obtain ⟨sent, hsent⟩ := step_tx_grows h
  simp [hsent]

/-- An end's own move only adds to what it has sent (R62). -/
theorem endMove_tx_length_le {s t : State} {x : EndMove} (h : State.stimulate x.stimulus s = .next t) :
    s.chan.tx.length ≤ t.chan.tx.length :=
  step_tx_length_le (s := { s with script := x.stimulus :: s.script }) h

@[simp] theorem State.receive?_tx (e : Option RxElem) (s : State) : (s.receive? e).chan.tx = s.chan.tx := by
  cases e <;> rfl

/-- What a move of the system keeps: the parameter `CHANNEL`, and that nothing is delivered before it is sent (R77). -/
structure Link.Keeps (l m : Link) : Prop where
  channel : m.channel = l.channel
  host : l.hostSent ≤ l.host.chan.tx.length → m.hostSent ≤ m.host.chan.tx.length
  firmware : l.firmwareSent ≤ l.firmware.chan.tx.length → m.firmwareSent ≤ m.firmware.chan.tx.length

theorem Link.Keeps.refl (l : Link) : l.Keeps l := ⟨rfl, id, id⟩

theorem Link.move_host_keeps {l m : Link} {x : EndMove} (h : l.move (.host x) = .next m) : l.Keeps m := by
  obtain ⟨s, hs, rfl⟩ := Link.move_host_cases h
  exact ⟨rfl, fun hl => hl.trans (endMove_tx_length_le hs), id⟩

theorem Link.move_firmware_keeps {l m : Link} {x : EndMove} (h : l.move (.firmware x) = .next m) : l.Keeps m := by
  obtain ⟨s, hs, rfl⟩ := Link.move_firmware_cases h
  exact ⟨rfl, id, fun hl => hl.trans (endMove_tx_length_le hs)⟩

theorem Link.move_carryToFirmware_keeps {l m : Link} (h : l.move .carryToFirmware = .next m) : l.Keeps m := by
  cases hb : l.host.chan.tx[l.hostSent]? with
  | none =>
    obtain rfl : l = m := Host.Outcome.next.inj ((Link.carryToFirmware_of_none hb).symm.trans h)
    exact .refl l
  | some b =>
    obtain rfl := Host.Outcome.next.inj ((Link.carryToFirmware_of_some hb).symm.trans h)
    exact ⟨rfl, fun _ => (List.getElem?_eq_some_iff.1 hb).1, id⟩

theorem Link.move_carryToHost_keeps {l m : Link} (h : l.move .carryToHost = .next m) : l.Keeps m := by
  cases hb : l.firmware.chan.tx[l.firmwareSent]? with
  | none =>
    obtain rfl : l = m := Host.Outcome.next.inj ((Link.carryToHost_of_none hb).symm.trans h)
    exact .refl l
  | some b =>
    obtain rfl := Host.Outcome.next.inj ((Link.carryToHost_of_some hb).symm.trans h)
    exact ⟨rfl, id, fun _ => (List.getElem?_eq_some_iff.1 hb).1⟩

theorem Link.move_insertToFirmware (l : Link) (e : RxElem) :
    l.move (.insertToFirmware e) = .next { l with firmware := l.firmware.receive? (l.channel.inserted e) } := rfl

theorem Link.move_insertToHost (l : Link) (e : RxElem) :
    l.move (.insertToHost e) = .next { l with host := l.host.receive? (l.channel.inserted e) } := rfl

theorem Link.move_insertToFirmware_keeps {l m : Link} {e : RxElem} (h : l.move (.insertToFirmware e) = .next m) :
    l.Keeps m := by
  obtain rfl := Host.Outcome.next.inj h
  exact ⟨rfl, id, fun hl => by simpa using hl⟩

theorem Link.move_insertToHost_keeps {l m : Link} {e : RxElem} (h : l.move (.insertToHost e) = .next m) :
    l.Keeps m := by
  obtain rfl := Host.Outcome.next.inj h
  exact ⟨rfl, fun hl => by simpa using hl, id⟩

theorem Link.move_keeps {l m : Link} {v : LinkMove} (h : l.move v = .next m) : l.Keeps m := by
  cases v with
  | host x => exact Link.move_host_keeps h
  | firmware x => exact Link.move_firmware_keeps h
  | carryToFirmware => exact Link.move_carryToFirmware_keeps h
  | carryToHost => exact Link.move_carryToHost_keeps h
  | insertToFirmware e => exact Link.move_insertToFirmware_keeps h
  | insertToHost e => exact Link.move_insertToHost_keeps h

/-- An end's move is a step of that end and changes nothing else of the system (R2, R256). -/
theorem Link.move_host_only {l m : Link} {x : EndMove} (h : l.move (.host x) = .next m) :
    m = { l with host := m.host } ∧ step { l.host with script := x.stimulus :: l.host.script } = .next m.host := by
  obtain ⟨s, hs, rfl⟩ := Link.move_host_cases h
  exact ⟨rfl, hs⟩

theorem Link.move_firmware_only {l m : Link} {x : EndMove} (h : l.move (.firmware x) = .next m) :
    m = { l with firmware := m.firmware } ∧
      step { l.firmware with script := x.stimulus :: l.firmware.script } = .next m.firmware := by
  obtain ⟨s, hs, rfl⟩ := Link.move_firmware_cases h
  exact ⟨rfl, hs⟩

/-- Settles O60, a move at a time. -/
theorem instancesMeetOnlyInTheChannel : Obligations.InstancesMeetOnlyInTheChannel := by
  refine ⟨fun _ _ _ => Link.move_host_only, fun _ _ _ => Link.move_firmware_only,
    fun _ _ => Link.carryToFirmware_of_some, fun _ _ => Link.carryToHost_of_some,
    fun l => ⟨fun h => Link.carryToFirmware_of_none (List.getElem?_eq_none h),
      fun h => Link.carryToHost_of_none (List.getElem?_eq_none h)⟩,
    fun l e hc => ?ideal, fun l e hc => ?any, fun l m v h => ?keeps⟩
  case ideal =>
    have hn : l.channel.inserted e = none := by rw [hc]; rfl
    rw [Link.move_insertToFirmware, Link.move_insertToHost, hn]
    exact ⟨rfl, rfl⟩
  case any =>
    have hs : l.channel.inserted e = some e := by rw [hc]; rfl
    rw [Link.move_insertToFirmware, Link.move_insertToHost, hs]
    exact ⟨rfl, rfl⟩
  case keeps =>
    obtain ⟨hc, hh, hf⟩ := Link.move_keeps h
    exact ⟨hc, hh, hf⟩

end Sys2Proof.Machine

namespace Sys2Proof.Machine

/-! ## The word of a decoded command -/

theorem decodeN_eq_ok {imm : Byte} {i j : Instr} (h : decodeN imm j = .ok i) : imm = 0 ∧ j = i := by
  unfold decodeN at h
  split at h
  · exact ⟨‹_›, Except.ok.inj h⟩
  · cases h

theorem decodeKind_eq_ok {imm : Byte} {i : Instr} {f : Byte → Instr} (h : decodeKind imm f = .ok i) : f imm = i := by
  unfold decodeKind at h
  split at h
  · exact Except.ok.inj h
  · cases h

/-- The opcode map tells a command's two fields (R84). -/
theorem fields_of_decodeFields {op imm : Byte} {i : Instr} (h : decodeFields op imm = .ok i) :
    i.opcode = op ∧ i.imm8 = imm := by
  have eqOp {n : Nat} (hn : op.toNat = n) : BitVec.ofNat 8 n = op := by rw [← hn]; simp
  unfold decodeFields at h
  -- the numbered cases are the arms of R84 in order: two with a kind, three with a data byte, the last with no command
  split at h
  case h_4 hop => obtain rfl := decodeKind_eq_ok h; exact ⟨eqOp hop, rfl⟩
  case h_5 hop => obtain rfl := decodeKind_eq_ok h; exact ⟨eqOp hop, rfl⟩
  case h_3 hop => obtain rfl := Except.ok.inj h; exact ⟨eqOp hop, rfl⟩
  case h_7 hop => obtain rfl := Except.ok.inj h; exact ⟨eqOp hop, rfl⟩
  case h_16 hop => obtain rfl := Except.ok.inj h; exact ⟨eqOp hop, rfl⟩
  case h_17 => cases h
  all_goals
    rename_i hop
    obtain ⟨rfl, rfl⟩ := decodeN_eq_ok h
    exact ⟨eqOp hop, rfl⟩

/-- A decoded word is the encoding of its command (R80 to R86). -/
theorem encode_of_decode {w : Word} {i : Instr} (h : decode w = .ok i) : encode i = w := by
  by_cases hr : rsvField w = 0
  · rw [decode_of_rsv_eq hr] at h
    obtain ⟨hop, himm⟩ := fields_of_decodeFields h
    rw [encode, hop, himm, commandWord_of_fields hr]
  · rw [decode_of_rsv_ne hr] at h
    cases h

/-! ## What a step does to the block -/

/-- Two blocks agree on CRC_REG, the scanner and the transfer. They may differ in the registers that only the controller
writes, the interrupt bits, the budget, RETRIES, TXERRS and ERRCODE. -/
structure Block.Agrees (a b : Block) : Prop where
  crcReg : b.crcReg = a.crcReg
  tgt : b.tgt = a.tgt
  tlen : b.tlen = a.tlen
  cur : b.cur = a.cur
  smode : b.smode = a.smode
  sres : b.sres = a.sres
  phase : b.phase = a.phase
  cause : b.cause = a.cause
  len : b.len = a.len
  idx : b.idx = a.idx
  off : b.off = a.off
  held : b.held = a.held
  rxdata : b.rxdata = a.rxdata
  acc : b.acc = a.acc
  snap : b.snap = a.snap
  expcrc : b.expcrc = a.expcrc

theorem Block.Agrees.refl (b : Block) : b.Agrees b := by constructor <;> rfl

/-- The block when the scan has met its whole target, before the arbiter reacts (R128, R130). -/
def Block.matched (b : Block) : Block := { b with cur := b.tlen }.closeScan .matched

/-- The changes of CRC_REG, the scanner and the transfer that one step other than reset can make, each under its
condition. The index is the command the step runs; it is free where no rule depends on the command. -/
inductive Block.Move : Option Instr → Block → Block → Prop where
  | stay {c : Option Instr} {b : Block} : Move c b b
  | crcInit {b : Block} : Move (some .crcInit) b { b with crcReg := crcInitial }
  | crcByte (x : Byte) {b : Block} : Move (some (.crcByte x)) b { b with crcReg := crcUpd b.crcReg x }
  /-- SCN.TOK, SCN.CLR, SCN.PUSH. -/
  | aim {c : Option Instr} {b : Block} (v : Vector Byte tokenMax) (l : BitVec 5) (hp : b.phase = .idle)
      (hs : b.smode = .idle) (hl : b.tlen.toNat ≤ tokenMax → l.toNat ≤ tokenMax) :
      Move c b { b with tgt := v, tlen := l, cur := 0, sres := .none }
  | scan {c : Option Instr} {b : Block} (m : ScanMode) (hp : b.phase = .idle) (ht : b.tlen ≠ 0) :
      Move c b { b with cur := 0, sres := .none, smode := m }
  | cursor {c : Option Instr} {b : Block} (x : Byte) (hs : b.smode ≠ .idle) (hx : b.nextCursor x ≠ b.tlen) :
      Move c b { b with cur := b.nextCursor x }
  | matchedAlone {c : Option Instr} {b : Block} (hw : b.phase.scanWait = false) : Move c b b.matched
  /-- S_AWAIT_READY is listed only because R166 gives it no reaction; its scan has no budget. -/
  | timeoutAlone {c : Option Instr} {b : Block} (hb : b.smode = .bounded)
      (hw : b.phase.scanWait = false ∨ b.phase = .sAwaitReady) : Move c b (b.closeScan .timedOut)
  | send {b : Block} (hp : b.phase = .idle) : Move (some .arbSend) b b.beginSend
  | sizeSent {c : Option Instr} {b : Block} (hp : b.phase = .sAwaitReady) : Move c b b.matched.enterSizeAck
  | sizeLost {c : Option Instr} {b : Block} (hp : b.phase = .sAwaitReady) : Move c b b.matched.txAbort
  | sizeAcked {c : Option Instr} {b : Block} (hp : b.phase = .sAwaitSizeAck) : Move c b b.matched.enterSizeOk
  | firstChunk {c : Option Instr} {b : Block} (hp : b.phase = .sAwaitSizeOk) (hn : nchunks b.len ≠ 0) :
      Move c b b.matched.beginImage.enterSendChunk
  | noChunk {c : Option Instr} {b : Block} (hp : b.phase = .sAwaitSizeOk) (hn : nchunks b.len = 0) :
      Move c b b.matched.beginImage.enterImageOk
  | payload (x : Byte) {b : Block} (hp : b.phase = .sSendChunk) (hn : b.off + 1 ≠ chunkEnd b.len b.idx) :
      Move (some (.txByte x)) b (b.countPayload x)
  | payloadLast (x : Byte) {b : Block} (hp : b.phase = .sSendChunk) (hn : b.off + 1 = chunkEnd b.len b.idx) :
      Move (some (.txByte x)) b (b.countPayload x).enterChunkAck
  | payloadLost {c : Option Instr} {b : Block} (hp : b.phase = .sSendChunk) : Move c b b.txAbort
  | nextChunk {c : Option Instr} {b : Block} (hp : b.phase = .sAwaitChunkAck) (hn : b.idx + 1 < nchunks b.len) :
      Move c b b.matched.commitChunk.nextChunk.enterSendChunk
  | lastChunk {c : Option Instr} {b : Block} (hp : b.phase = .sAwaitChunkAck) (hn : ¬ b.idx + 1 < nchunks b.len) :
      Move c b b.matched.commitChunk.enterImageOk
  | imageOk {c : Option Instr} {b : Block} (hp : b.phase = .sAwaitImageOk) : Move c b b.matched.enterDone
  | timeoutAbort {c : Option Instr} {b : Block} (k : Cause)
      (hk : (b.phase, k) ∈ [(Phase.sAwaitSizeAck, Cause.sizeAckTimeout), (.sAwaitSizeOk, .sizeOkTimeout),
        (.sAwaitImageOk, .imageOkTimeout)]) : Move c b ((b.closeScan .timedOut).abort k)
  | retransmit {c : Option Instr} {b : Block} (hp : b.phase = .sAwaitChunkAck) :
      Move c b (b.closeScan .timedOut).retransmit
  | receive {c : Option Instr} {b : Block} (hp : b.phase = .idle) (hs : b.smode = .idle) :
      Move c b { b.beginReceive with phase := .rReceiveSize }
  | sizeByte {c : Option Instr} {b : Block} (x : Byte) (hp : b.phase = .rReceiveSize) (hn : b.off + 1 ≠ 8) :
      Move c b (b.takeSizeByte x)
  | sizeLast {c : Option Instr} {b : Block} (x : Byte) (hp : b.phase = .rReceiveSize) (hn : b.off + 1 = 8) :
      Move c b (b.takeSizeByte x).beginConfirmSize.enterAllocWait
  | sizeRestart {c : Option Instr} {b : Block} (hp : b.phase = .rReceiveSize) : Move c b b.restartSize
  | alloc {c : Option Instr} {b : Block} (hp : b.phase = .rAllocWait) (hl : b.len ≠ 0) :
      Move c b { b with phase := .rReceiveImage }
  | allocEmpty {c : Option Instr} {b : Block} (hp : b.phase = .rAllocWait) (hl : b.len = 0) :
      Move c b b.beginConfirmImage.enterHandoff
  | noalloc {c : Option Instr} {b : Block} (hp : b.phase = .rAllocWait) : Move c b b.halt
  | hold {c : Option Instr} {b : Block} (x : Byte) (hp : b.phase = .rReceiveImage) (hh : b.held = false) :
      Move c b (b.holdByte x)
  | chunkRestart {c : Option Instr} {b : Block} (hp : b.phase = .rReceiveImage) (hh : b.held = false) :
      Move c b b.restartChunk
  | take {c : Option Instr} {b : Block} (hp : b.phase = .rReceiveImage) (hh : b.held = true)
      (hn : b.off + 1 ≠ chunkEnd b.len b.idx) : Move c b b.release
  | takeChunk {c : Option Instr} {b : Block} (hp : b.phase = .rReceiveImage) (hh : b.held = true)
      (hn : b.off + 1 = chunkEnd b.len b.idx) (hl : b.off + 1 ≠ b.len) : Move c b b.release.commitChunk.nextChunk
  | takeLast {c : Option Instr} {b : Block} (hp : b.phase = .rReceiveImage) (hh : b.held = true)
      (hn : b.off + 1 = chunkEnd b.len b.idx) (hl : b.off + 1 = b.len) :
      Move c b b.release.commitChunk.beginConfirmImage.enterHandoff
  | clear {b : Block} (hp : b.phase.terminal = true) : Move (some .arbClear) b b.cleared

/-- One of these changes, with any change of the registers that `Block.Agrees` leaves out. -/
def Block.Moves (c : Option Instr) (a b : Block) : Prop := ∃ m, Block.Move c a m ∧ m.Agrees b

/-- A change of the registers that `Block.Agrees` leaves out is a move. -/
theorem Block.Agrees.moves {a b : Block} (h : a.Agrees b) (c : Option Instr) : Block.Moves c a b := ⟨a, .stay, h⟩

/-- A move that leaves exactly its block. -/
theorem Block.Move.moves {c : Option Instr} {a b : Block} (h : Block.Move c a b) : Block.Moves c a b := ⟨b, h, .refl b⟩

/-- A command error changes ERRCODE and an interrupt bit only (R241). -/
theorem Block.cmdError_agrees (e : ErrCode) (b : Block) : b.Agrees (b.cmdError e) := by constructor <;> rfl

/-- A counted emission changes at most TXERRS in the block (R216). -/
theorem emitCounted_agrees (bs : List Byte) (s : State) : s.blk.Agrees (s.emitCounted bs).blk := by
  constructor <;> simp

/-- A write of a register other than CMD changes controller registers and interrupt bits only (R67). -/
theorem Block.writeReg_agrees (v : Word) (b : Block) (r : Reg) : b.Agrees (b.writeReg v r) := by
  cases r <;> constructor <;> rfl

/-- A phase that waits for a scan is one of the five of R161. -/
theorem Phase.scanWait_cases {p : Phase} (h : p.scanWait = true) :
    p = .sAwaitReady ∨ p = .sAwaitSizeAck ∨ p = .sAwaitSizeOk ∨ p = .sAwaitChunkAck ∨ p = .sAwaitImageOk := by
  simpa [Phase.scanWait, or_assoc] using h

/-- The end of a matching scan with the sender's reaction (R130, R162, R165). -/
theorem scanEnd_matched_moves {s : State} (c : Option Instr) {b : Block} (hb : s.blk = { b with cur := b.tlen }) :
    Block.Moves c b (s.scanEnd .matched).blk := by
  have hm : s.blk.closeScan .matched = b.matched := by rw [hb]; rfl
  have hph : s.blk.phase = b.phase := by rw [hb]
  by_cases hw : b.phase.scanWait = true
  case neg =>
    rw [Bool.not_eq_true] at hw
    rw [scanEnd_of_no_wait (hph ▸ hw), State.mapBlk_blk, hm]
    exact (Block.Move.matchedAlone hw).moves
  obtain hp | hp | hp | hp | hp := Phase.scanWait_cases hw
  · rw [scanEnd_matched_awaitReady (hph.trans hp)]
    cases hd : (s.mapBlk (Block.closeScan .matched)).chan.draw with
    | ok =>
      refine ⟨_, .sizeSent hp, ?_⟩
      rw [sendSize_of_ok hd, ← hm]
      constructor <;> rfl
    | err k =>
      refine ⟨_, .sizeLost hp, ?_⟩
      rw [sendSize_of_err hd, ← hm]
      constructor <;> rfl
  · rw [scanEnd_matched_awaitSizeAck (hph.trans hp), State.mapBlk_blk, State.mapBlk_blk, hm]
    exact (Block.Move.sizeAcked hp).moves
  · rw [scanEnd_matched_awaitSizeOk (hph.trans hp), State.mapBlk_blk, State.mapBlk_blk, hm]
    by_cases hn : nchunks b.len = 0
    · rw [enterImage_of_empty (b := b.matched) hn]
      exact (Block.Move.noChunk hp hn).moves
    · rw [enterImage_of_chunks (b := b.matched) hn]
      exact (Block.Move.firstChunk hp hn).moves
  · rw [scanEnd_matched_awaitChunkAck (hph.trans hp), State.mapBlk_blk, State.mapBlk_blk, hm]
    by_cases hn : b.idx + 1 < nchunks b.len
    · rw [chunkAcked_of_more (b := b.matched) hn]
      exact (Block.Move.nextChunk hp hn).moves
    · rw [chunkAcked_of_last (b := b.matched) hn]
      exact (Block.Move.lastChunk hp hn).moves
  · rw [scanEnd_matched_awaitImageOk (hph.trans hp), State.mapBlk_blk, State.mapBlk_blk, hm]
    exact (Block.Move.imageOk hp).moves

/-- The end of a bounded scan in TIMEOUT with the sender's reaction (R130, R166). -/
theorem scanEnd_timedOut_moves {s : State} (c : Option Instr) {b : Block} {v : Word}
    (hs : s.blk = { b with budget := v }) (hb : b.smode = .bounded) : Block.Moves c b (s.scanEnd .timedOut).blk := by
  have hph : s.blk.phase = b.phase := by rw [hs]
  by_cases hw : b.phase.scanWait = true
  case neg =>
    rw [Bool.not_eq_true] at hw
    rw [scanEnd_of_no_wait (hph ▸ hw), State.mapBlk_blk, hs]
    exact ⟨_, .timeoutAlone hb (.inl hw), by constructor <;> rfl⟩
  have hcl : (s.blk.closeScan .timedOut).phase = b.phase := hph
  have hr : b.phase.role = .sender := by
    obtain hp | hp | hp | hp | hp := Phase.scanWait_cases hw <;> rw [hp] <;> rfl
  rw [scanEnd_timedOut_of_sender (hph ▸ hr), State.mapBlk_blk, State.mapBlk_blk]
  obtain hp | hp | hp | hp | hp := Phase.scanWait_cases hw
  · rw [onTimeout_awaitReady (hcl.trans hp), hs]
    exact ⟨_, .timeoutAlone hb (.inr hp), by constructor <;> rfl⟩
  · rw [onTimeout_sizeAck (hcl.trans hp), hs]
    exact ⟨_, .timeoutAbort .sizeAckTimeout (by simp [hp]), by constructor <;> rfl⟩
  · rw [onTimeout_sizeOk (hcl.trans hp), hs]
    exact ⟨_, .timeoutAbort .sizeOkTimeout (by simp [hp]), by constructor <;> rfl⟩
  · rw [onTimeout_chunkAck (hcl.trans hp), hs]
    exact ⟨_, .retransmit hp, by constructor <;> rfl⟩
  · rw [onTimeout_imageOk (hcl.trans hp), hs]
    exact ⟨_, .timeoutAbort .imageOkTimeout (by simp [hp]), by constructor <;> rfl⟩

/-- The start of a scan by a command, on an empty target or not (R126, R127). -/
theorem runScan_moves {s : State} (c : Option Instr) (m : ScanMode) {b : Block} {v : Word}
    (hs : s.blk = { b with budget := v }) (hp : b.phase = .idle) : Block.Moves c b (s.runScan m).blk := by
  have hw : b.phase.scanWait = false := by simp [hp, Phase.scanWait]
  by_cases ht : b.tlen = 0
  · rw [runScan_of_empty (by rw [hs]; exact ht), scanEnd_of_no_wait (by rw [State.mapBlk_blk, hs]; exact hw)]
    refine ⟨_, .matchedAlone hw, ?_⟩
    constructor <;> simp [Block.matched, ht, hs]
  · rw [runScan_of_target (by rw [hs]; exact ht), State.mapBlk_blk, hs]
    exact ⟨_, .scan m hp ht, by constructor <;> rfl⟩

/-- RX.TAKE of a held byte (R212). -/
theorem takeByte_moves {s : State} (c : Option Instr) (hp : s.blk.phase = .rReceiveImage) (hh : s.blk.held = true) :
    Block.Moves c s.blk s.takeByte.blk := by
  by_cases hn : s.blk.off + 1 = chunkEnd s.blk.len s.blk.idx
  case neg =>
    rw [takeByte_of_more hn]
    exact (Block.Move.take hp hh hn).moves
  rw [takeByte_of_filled hn]
  by_cases hl : s.blk.off + 1 = s.blk.len
  · rw [chunkFilled_of_last (s := s.mapBlk Block.release) hl]
    refine ⟨_, .takeLast hp hh hn hl, ?_⟩
    constructor <;> simp [State.confirmImage]
  · rw [chunkFilled_of_more (s := s.mapBlk Block.release) hl]
    refine ⟨_, .takeChunk hp hh hn hl, ?_⟩
    constructor <;> simp

/-- ARB.ALLOC in R_ALLOC_WAIT (R207). -/
theorem allocated_moves {s : State} (c : Option Instr) (hp : s.blk.phase = .rAllocWait) :
    Block.Moves c s.blk s.allocated.blk := by
  by_cases hl : s.blk.len = 0
  · rw [allocated_of_empty hl]
    refine ⟨_, .allocEmpty hp hl, ?_⟩
    constructor <;> simp [State.confirmImage]
  · rw [allocated_of_chunks hl]
    exact (Block.Move.alloc hp hl).moves

/-- TX.BYTE in S_SEND_CHUNK (R172). -/
theorem sendPayload_moves {s : State} (x : Byte) (hp : s.blk.phase = .sSendChunk) :
    Block.Moves (some (.txByte x)) s.blk (s.sendPayload x).blk := by
  cases hd : s.chan.draw with
  | err k =>
    rw [sendPayload_of_err hd]
    exact (Block.Move.payloadLost hp).moves
  | ok =>
    rw [sendPayload_of_ok hd, State.mapBlk_blk, State.emit_blk]
    by_cases hn : s.blk.off + 1 = chunkEnd s.blk.len s.blk.idx
    · rw [payloadSent_of_last hn]
      exact (Block.Move.payloadLast x hp hn).moves
    · rw [payloadSent_of_more hn]
      exact (Block.Move.payload x hp hn).moves

/-- The commands that raise BUSY run in IDLE with no scan (R240). -/
theorem idle_of_not_unitBusy {b : Block} (h : ¬ b.unitBusy = true) : b.phase = .idle ∧ b.smode = .idle := by
  rw [unitBusy_iff, not_or, not_not, not_not] at h
  exact h

/-- A target that is not full takes one more byte (R125). -/
theorem succ_tlen_le {l : BitVec 5} (hf : l ≠ BitVec.ofNat 5 tokenMax) (hl : l.toNat ≤ tokenMax) :
    (l + 1).toNat ≤ tokenMax := by
  have hne : l.toNat ≠ 26 := fun e => hf (BitVec.eq_of_toNat_eq e)
  have hadd : (l + 1).toNat = (l.toNat + 1) % 32 := BitVec.toNat_add _ _
  simp only [tokenMax] at hl ⊢
  omega

/-- Every command makes a move of its own. -/
theorem exec_moves (i : Instr) (s : State) : ∃ t, exec i s = .next t ∧ Block.Moves (some i) s.blk t.blk := by
  have err (e : ErrCode) : ∃ t, s.raise e = .next t ∧ Block.Moves (some i) s.blk t.blk :=
    ⟨_, rfl, (Block.cmdError_agrees e s.blk).moves _⟩
  cases i with
  | nop => exact ⟨_, rfl, Block.Move.stay.moves⟩
  | crcInit => exact ⟨_, rfl, Block.Move.crcInit.moves⟩
  | crcByte x => exact ⟨_, rfl, (Block.Move.crcByte x).moves⟩
  | tokEmit k =>
    simp only [exec, execTokEmit]
    split
    · exact err _
    · split
      · exact ⟨_, rfl, (emitCounted_agrees _ s).moves _⟩
      · exact err _
  | scnTok k =>
    simp only [exec, execScnTok]
    split
    · exact err _
    · split
      · exact err _
      · rename_i kind _ hu
        obtain ⟨hp, hs⟩ := idle_of_not_unitBusy hu
        exact ⟨_, rfl, (Block.Move.aim _ _ hp hs fun _ => (tok_tlen kind _).trans_le (tok_length_le kind _)).moves⟩
  | scnClr =>
    simp only [exec, execScnClr]
    split
    · exact err _
    · rename_i hu
      obtain ⟨hp, hs⟩ := idle_of_not_unitBusy hu
      exact ⟨_, rfl, (Block.Move.aim s.blk.tgt 0 hp hs fun _ => Nat.zero_le _).moves⟩
  | scnPush x =>
    simp only [exec, execScnPush]
    split
    · exact err _
    · split
      · exact err _
      · rename_i hu hf
        obtain ⟨hp, hs⟩ := idle_of_not_unitBusy hu
        exact ⟨_, rfl, (Block.Move.aim _ _ hp hs (succ_tlen_le hf)).moves⟩
  | scnRun =>
    simp only [exec, execScnRun]
    split
    · exact err _
    · rename_i hu
      exact ⟨_, rfl, runScan_moves _ _ rfl (idle_of_not_unitBusy hu).1⟩
  | scnRunb =>
    simp only [exec, execScnRunb]
    split
    · exact err _
    · rename_i hu
      exact ⟨_, rfl, runScan_moves _ _ rfl (idle_of_not_unitBusy hu).1⟩
  | arbSend =>
    simp only [exec, execArbSend]
    split
    · exact err _
    · rename_i hu
      exact ⟨_, rfl, (Block.Move.send (idle_of_not_unitBusy hu).1).moves⟩
  | arbRecv =>
    simp only [exec, execArbRecv]
    split
    · exact err _
    · rename_i hu
      obtain ⟨hp, hs⟩ := idle_of_not_unitBusy hu
      refine ⟨_, rfl, _, .receive hp hs, ?_⟩
      constructor <;> simp [State.requestImage]
  | arbAlloc =>
    simp only [exec, execArbAlloc]
    split
    · rename_i hp
      exact ⟨_, rfl, allocated_moves _ hp⟩
    · exact err _
  | arbNoalloc =>
    simp only [exec, execArbNoalloc]
    split
    · rename_i hp
      exact ⟨_, rfl, (Block.Move.noalloc hp).moves⟩
    · exact err _
  | rxTake =>
    simp only [exec, execRxTake]
    split
    · split
      · rename_i hp hh
        exact ⟨_, rfl, takeByte_moves _ hp hh⟩
      · exact err _
    · exact err _
  | arbClear =>
    simp only [exec, execArbClear]
    split
    · rename_i hp
      exact ⟨_, rfl, (Block.Move.clear hp).moves⟩
    · exact err _
  | txByte x =>
    simp only [exec, execTxByte]
    split
    · exact ⟨_, rfl, (emitCounted_agrees _ s).moves _⟩
    · split
      · rename_i hp
        exact ⟨_, rfl, sendPayload_moves x hp⟩
      · exact err _

/-- One RX event of a running scan (R128, R129). -/
theorem scanEvent_moves {s : State} (e : RxEvent) (hs : s.blk.smode ≠ .idle) :
    Block.Moves none s.blk (s.scanEvent e).blk := by
  have unsuccessful : Block.Moves none s.blk s.scanUnsuccessful.blk := by
    by_cases hb : s.blk.smode = .bounded
    · rw [scanUnsuccessful_of_bounded hb]
      by_cases hq : s.blk.budget.toNat ≤ s.par.quantum
      · rw [chargeBudget_of_exhausted hq]
        exact scanEnd_timedOut_moves none rfl hb
      · rw [chargeBudget_of_more hq]
        exact Block.Agrees.moves (by constructor <;> rfl) none
    · rw [scanUnsuccessful_of_unbounded hb]
      exact Block.Move.stay.moves
  cases e with
  | byte x =>
    by_cases hx : s.blk.nextCursor x = s.blk.tlen
    · rw [State.scanEvent, scanByte_of_end hx]
      exact scanEnd_matched_moves none (by rw [State.mapBlk_blk, hx])
    · rw [State.scanEvent, scanByte_of_more hx]
      exact (Block.Move.cursor x hs hx).moves
  | error => exact unsuccessful
  | quiet => exact unsuccessful

/-- One RX event in R_RECEIVE_SIZE (R203, R205). -/
theorem sizeEvent_moves {s : State} (e : RxEvent) (hp : s.blk.phase = .rReceiveSize) :
    Block.Moves none s.blk (s.sizeEvent e).blk := by
  cases e with
  | byte x =>
    by_cases hn : s.blk.off + 1 = 8
    · rw [sizeEvent_byte_of_last hn]
      refine ⟨_, .sizeLast x hp hn, ?_⟩
      constructor <;> simp [State.confirmSize]
    · rw [sizeEvent_byte_of_more hn]
      exact (Block.Move.sizeByte x hp hn).moves
  | error => exact (Block.Move.sizeRestart hp).moves
  | quiet => exact Block.Move.stay.moves

/-- One RX event in R_RECEIVE_IMAGE (R211). -/
theorem imageEvent_moves {s : State} (e : RxEvent) (hp : s.blk.phase = .rReceiveImage) (hh : s.blk.held = false) :
    Block.Moves none s.blk (s.imageEvent e).blk := by
  cases e with
  | byte x => exact (Block.Move.hold x hp hh).moves
  | error => exact (Block.Move.chunkRestart hp hh).moves
  | quiet => exact Block.Move.stay.moves

theorem rxStep_moves (s : State) : Block.Moves none s.blk s.rxStep.blk := by
  cases rxStep_cases s with
  | notReading _ e =>
    rw [e]
    exact Block.Move.stay.moves
  | scan hs e => exact e ▸ scanEvent_moves (s := s.dropRx) _ hs
  | size _ hp e => exact e ▸ sizeEvent_moves (s := s.dropRx) _ hp
  | image _ hp hh e => exact e ▸ imageEvent_moves (s := s.dropRx) _ hp hh

/-- What a step does to the block: a reset, or a move, whose command stands at the head of the script. -/
theorem step_moves {s t : State} (h : step s = .next t) :
    (s.script.head? = some .reset ∧ ∃ n, t.blk = Block.reset s.par n) ∨
    ∃ c, Block.Moves c s.blk t.blk ∧ ∀ i ∈ c, s.script.head? = some (pushInstr i) := by
  have still (ht : s.blk.Agrees t.blk) :
      ∃ c, Block.Moves c s.blk t.blk ∧ ∀ i ∈ c, s.script.head? = some (pushInstr i) := ⟨none, ht.moves none, nofun⟩
  cases step_cases h with
  | still _ e => exact .inr (still (e ▸ .refl _))
  | append _ _ _ e => exact .inr (still (e ▸ .refl _))
  | rx rest _ e => exact .inr ⟨none, e ▸ rxStep_moves { s with script := rest }, nofun⟩
  | reset rest hs e => exact .inl ⟨by rw [hs]; rfl, s.chan.fresh, by rw [e]; rfl⟩
  | read _ _ _ _ e => exact .inr (still (e ▸ .refl _))
  | write _ v r _ _ _ _ _ e => exact .inr (still (e ▸ Block.writeReg_agrees v _ r))
  | writeReserved _ _ _ _ _ _ e => exact .inr (still (e ▸ .refl _))
  | command w rest hs e =>
    cases hd : decode w with
    | ok i =>
      obtain ⟨u, hu, hm⟩ := exec_moves i { s with script := rest }
      rw [command_of_ok hd, hu] at e
      obtain rfl := Host.Outcome.next.inj e
      refine .inr ⟨some i, hm, fun j hj => ?_⟩
      obtain rfl := Option.some.inj hj
      rw [hs, pushInstr, encode_of_decode hd]
      rfl
    | error c =>
      rw [command_of_error hd] at e
      obtain rfl := Host.Outcome.next.inj e
      exact .inr (still (Block.cmdError_agrees _ s.blk))

/-! ## The invariant is kept -/

/-- The scanner's part of the invariant (R30, R31, R34, R128). -/
structure Block.ScannerOk (b : Block) : Prop where
  tlenLe : b.tlen.toNat ≤ tokenMax
  curLe : b.cur.toNat ≤ b.tlen.toNat
  scanning : b.smode ≠ .idle → b.cur.toNat < b.tlen.toNat ∧ b.sres = .none
  matchedCur : b.sres = .matched → b.cur = b.tlen

theorem Block.Inv.scanner {b : Block} (h : b.Inv) : b.ScannerOk := ⟨h.tlenLe, h.curLe, h.scanning, h.matchedCur⟩

/-- The scanner's part and the transfer's parts make the invariant. -/
theorem Block.ScannerOk.inv {b : Block} (h : b.ScannerOk) (hs : b.phase.transient = false)
    (hh : b.held = true → b.phase = .rReceiveImage) (hw : b.waitOk) (hp : b.progressOk) (hc : b.causeOk) : b.Inv :=
  ⟨h.tlenLe, h.curLe, h.scanning, h.matchedCur, hs, hh, hw, hp, hc⟩

theorem Block.ScannerOk.congr {a b : Block} (h : a.ScannerOk) (htlen : b.tlen = a.tlen) (hcur : b.cur = a.cur)
    (hsmode : b.smode = a.smode) (hsres : b.sres = a.sres) : b.ScannerOk :=
  ⟨by rw [htlen]; exact h.tlenLe, by rw [htlen, hcur]; exact h.curLe,
    by rw [hsmode, hcur, htlen, hsres]; exact h.scanning,
    by rw [hsres, hcur, htlen]; exact h.matchedCur⟩

/-- A scanner with no result and no scan (R123 to R125). -/
theorem Block.ScannerOk.of_aimed {b : Block} (hl : b.tlen.toNat ≤ tokenMax) (hc : b.cur = 0) (hs : b.smode = .idle)
    (hr : b.sres = .none) : b.ScannerOk :=
  ⟨hl, by simp [hc], fun h => absurd hs h, fun h => by simp [hr] at h⟩

/-- A scan that has met its whole target (R31, R130). -/
theorem Block.ScannerOk.matched {b : Block} (h : b.ScannerOk) : b.matched.ScannerOk :=
  ⟨h.tlenLe, Nat.le_refl _, fun h => absurd rfl h, fun _ => rfl⟩

/-- A scan that has run out of time (R129, R130). -/
theorem Block.ScannerOk.timedOut {b : Block} (h : b.ScannerOk) : (b.closeScan .timedOut).ScannerOk :=
  ⟨h.tlenLe, h.curLe, fun h => absurd rfl h, nofun⟩

/-- A byte of a scan that does not complete the target leaves the cursor inside it (R128). -/
theorem nextCursor_lt {b : Block} {x : Byte} (h : b.cur.toNat < b.tlen.toNat) (hx : b.nextCursor x ≠ b.tlen) :
    (b.nextCursor x).toNat < b.tlen.toNat := by
  have hlt := b.tlen.isLt
  by_cases hm : b.target[b.cur.toNat]? = some x
  · rw [nextCursor_of_match hm] at hx ⊢
    have hne : (b.cur + 1).toNat ≠ b.tlen.toNat := fun e => hx (BitVec.eq_of_toNat_eq e)
    have hadd : (b.cur + 1).toNat = (b.cur.toNat + 1) % 32 := BitVec.toNat_add _ _
    omega
  · rw [nextCursor_of_mismatch hm]
    exact Nat.zero_lt_of_lt h

/-- A phase that waits for no scan asks only that none runs (R161, R201). -/
theorem waitOk_of_idle {b : Block} (hw : b.phase.scanWait = false) (hs : b.smode = .idle) : b.waitOk := by
  unfold Block.waitOk
  revert hw
  cases b.phase <;> simp [hs, Phase.scanWait]

theorem progressOk_congr {a b : Block} (h : a.progressOk) (hphase : b.phase = a.phase) (hlen : b.len = a.len)
    (hidx : b.idx = a.idx) (hoff : b.off = a.off) : b.progressOk := by
  unfold Block.progressOk Block.insideChunk at *
  rw [hphase, hlen, hidx, hoff]
  exact h

theorem causeOk_congr {a b : Block} (h : a.causeOk) (hphase : b.phase = a.phase) (hcause : b.cause = a.cause) :
    b.causeOk := by
  unfold Block.causeOk at *
  rw [hphase, hcause]
  exact h

theorem waitOk_congr {a b : Block} (h : a.waitOk) (hphase : b.phase = a.phase) (hsmode : b.smode = a.smode)
    (htarget : b.target = a.target) (hexpcrc : b.expcrc = a.expcrc) (hlen : b.len = a.len) (hidx : b.idx = a.idx)
    (hacc : b.acc = a.acc) : b.waitOk := by
  unfold Block.waitOk at *
  rw [hphase, hsmode, htarget, hexpcrc, hlen, hidx, hacc]
  exact h

/-- A change of the scanner alone keeps the transfer's parts of the invariant. -/
theorem Block.Inv.rescan {a b : Block} (h : a.Inv) (hs : b.ScannerOk) (hw : b.waitOk) (hphase : b.phase = a.phase)
    (hcause : b.cause = a.cause) (hheld : b.held = a.held) (hlen : b.len = a.len) (hidx : b.idx = a.idx)
    (hoff : b.off = a.off) : b.Inv :=
  hs.inv (hphase ▸ h.steady) (by rw [hheld, hphase]; exact h.heldPhase) hw
    (progressOk_congr h.progress hphase hlen hidx hoff) (causeOk_congr h.causes hphase hcause)

/-- No scan runs in a phase of the receiver, nor where the sender waits for the controller or has ended (R161, R201). -/
theorem Block.Inv.no_scan {b : Block} (h : b.Inv) {p : Phase} (hp : b.phase = p) (hw : p.scanWait = false := by rfl)
    (hi : p ≠ .idle := by decide) : b.smode = .idle := by
  have hwait := h.wait
  unfold Block.waitOk at hwait
  rw [hp] at hwait
  cases p <;> simp_all [Phase.scanWait]

/-- A phase that has not ended in an abort or a halt shows no cause (R27). -/
theorem Block.Inv.no_cause {b : Block} (h : b.Inv) {p : Phase} (hp : b.phase = p) (ha : p ≠ .sAborted := by decide)
    (hh : p ≠ .rHalted := by decide) : b.cause = .none := by
  have hcause := h.causes
  unfold Block.causeOk at hcause
  rw [hp] at hcause
  cases p <;> simp_all

/-- A phase other than R_RECEIVE_IMAGE holds no byte (R43). -/
theorem Block.Inv.no_byte {b : Block} (h : b.Inv) {p : Phase} (hp : b.phase = p)
    (hi : p ≠ .rReceiveImage := by decide) : b.held = false := h.not_held (hp ▸ hi)

/-- An aborted sender (R27, R164). -/
theorem Block.ScannerOk.inv_aborted {b : Block} (h : b.ScannerOk) (hp : b.phase = .sAborted) (hh : b.held = false)
    (hs : b.smode = .idle) (hc : b.cause ≠ .none ∧ b.cause ≠ .allocFailure) : b.Inv :=
  h.inv (by rw [hp]; rfl) (by simp [hh]) (waitOk_of_idle (by rw [hp]; rfl) hs) (by simp [Block.progressOk, hp])
    (by simpa [Block.causeOk, hp] using hc)

/-- A sender or receiver at a byte of a chunk (R172, R211). -/
theorem Block.ScannerOk.inv_inChunk {b : Block} (h : b.ScannerOk)
    (hp : b.phase = .sSendChunk ∧ b.held = false ∨ b.phase = .rReceiveImage)
    (hs : b.smode = .idle) (hi : b.insideChunk) (hc : b.cause = .none) : b.Inv := by
  obtain ⟨hp, hh⟩ | hp := hp
  · exact h.inv (by rw [hp]; rfl) (by simp [hh]) (waitOk_of_idle (by rw [hp]; rfl) hs)
      (by simpa [Block.progressOk, hp] using hi) (by simpa [Block.causeOk, hp] using hc)
  · exact h.inv (by rw [hp]; rfl) (fun _ => hp) (waitOk_of_idle (by rw [hp]; rfl) hs)
      (by simpa [Block.progressOk, hp] using hi) (by simpa [Block.causeOk, hp] using hc)

/-! ### The scanner's own moves -/

section
variable {b : Block} (h : b.Inv)
include h

theorem Block.Inv.aim {v : Vector Byte tokenMax} {l : BitVec 5} (hp : b.phase = .idle) (hs : b.smode = .idle)
    (hl : l.toNat ≤ tokenMax) : Block.Inv { b with tgt := v, tlen := l, cur := 0, sres := .none } :=
  h.rescan (.of_aimed hl rfl hs rfl) (waitOk_of_idle (by simp [hp, Phase.scanWait]) hs) rfl rfl rfl rfl rfl rfl

theorem Block.Inv.scan {m : ScanMode} (hp : b.phase = .idle) (ht : b.tlen ≠ 0) :
    Block.Inv { b with cur := 0, sres := .none, smode := m } := by
  have hpos : 0 < b.tlen.toNat := Nat.pos_of_ne_zero fun e => ht (BitVec.eq_of_toNat_eq e)
  exact h.rescan ⟨h.tlenLe, Nat.zero_le _, fun _ => ⟨hpos, rfl⟩, nofun⟩ (by simp [Block.waitOk, hp]) rfl rfl rfl rfl
    rfl rfl

theorem Block.Inv.cursor {x : Byte} (hs : b.smode ≠ .idle) (hx : b.nextCursor x ≠ b.tlen) :
    Block.Inv { b with cur := b.nextCursor x } := by
  obtain ⟨hcur, hres⟩ := h.scanning hs
  have hlt := nextCursor_lt hcur hx
  exact h.rescan ⟨h.tlenLe, Nat.le_of_lt hlt, fun _ => ⟨hlt, hres⟩, fun e => by simp [hres] at e⟩
    (waitOk_congr h.wait rfl rfl rfl rfl rfl rfl rfl) rfl rfl rfl rfl rfl rfl

theorem Block.Inv.matchedAlone (hw : b.phase.scanWait = false) : b.matched.Inv :=
  h.rescan h.scanner.matched (waitOk_of_idle hw rfl) rfl rfl rfl rfl rfl rfl

/-- The scan of S_AWAIT_READY is unbounded and "never times out" (R166). -/
theorem Block.Inv.timeoutAlone (hb : b.smode = .bounded) (hw : b.phase.scanWait = false ∨ b.phase = .sAwaitReady) :
    (b.closeScan .timedOut).Inv := by
  obtain hw | hp := hw
  · exact h.rescan h.scanner.timedOut (waitOk_of_idle hw rfl) rfl rfl rfl rfl rfl rfl
  · have hwait := h.wait
    simp [Block.waitOk, hp, hb] at hwait

/-! ### The sender's moves -/

theorem Block.Inv.sizeSent (hp : b.phase = .sAwaitReady) : b.matched.enterSizeAck.Inv := by
  have hprog := h.progress
  simp only [Block.progressOk, hp] at hprog
  exact startScan_inv _ _ _ _ (h.no_byte hp) rfl ⟨rfl, target_startScan _ _ _ _ _, rfl⟩ hprog (h.no_cause hp)

theorem Block.Inv.sizeAcked (hp : b.phase = .sAwaitSizeAck) : b.matched.enterSizeOk.Inv := by
  have hprog := h.progress
  have hwait := h.wait
  simp only [Block.progressOk, hp] at hprog
  simp only [Block.waitOk, hp] at hwait
  obtain ⟨-, -, hsum⟩ := hwait
  exact startScan_inv _ _ _ _ (h.no_byte hp) rfl ⟨rfl, target_startScan _ _ _ _ _, hsum⟩ hprog (h.no_cause hp)

theorem Block.Inv.firstChunk (hp : b.phase = .sAwaitSizeOk) (hn : nchunks b.len ≠ 0) :
    b.matched.beginImage.enterSendChunk.Inv := by
  have hlt : (0 : DWord) < nchunks b.len := (BitVec.pos_iff_ne_zero _).2 hn
  exact Block.ScannerOk.inv_inChunk (h.scanner.matched.congr rfl rfl rfl rfl) (.inl ⟨rfl, h.no_byte hp⟩) rfl
    (insideChunk_start hlt rfl) (h.no_cause hp)

theorem Block.Inv.noChunk (hp : b.phase = .sAwaitSizeOk) (hn : nchunks b.len = 0) :
    b.matched.beginImage.enterImageOk.Inv := by
  have hprog := h.progress
  simp only [Block.progressOk, hp] at hprog
  obtain ⟨-, hoff⟩ := hprog
  exact startScan_inv _ _ _ _ (h.no_byte hp) rfl ⟨rfl, target_startScan _ _ _ _ _, rfl⟩
    (hoff.trans (nchunks_eq_zero.1 hn).symm) (h.no_cause hp)

theorem Block.Inv.insideChunk (hp : b.phase = .sSendChunk ∨ b.phase = .rReceiveImage) : b.insideChunk := by
  have hprog := h.progress
  obtain hp | hp := hp <;> simpa only [Block.progressOk, hp] using hprog

theorem Block.Inv.payload {x : Byte} (hp : b.phase = .sSendChunk) (hn : b.off + 1 ≠ chunkEnd b.len b.idx) :
    (b.countPayload x).Inv := by
  have hin := h.insideChunk (.inl hp)
  exact Block.ScannerOk.inv_inChunk (h.scanner.congr rfl rfl rfl rfl) (.inl ⟨hp, h.no_byte hp⟩)
    (h.no_scan hp) ⟨hin.1, insideChunk_next hin hn⟩ (h.no_cause hp)

theorem Block.Inv.payloadLast {x : Byte} (hp : b.phase = .sSendChunk) (hn : b.off + 1 = chunkEnd b.len b.idx) :
    (b.countPayload x).enterChunkAck.Inv :=
  startScan_inv _ _ _ _ (h.no_byte hp) rfl ⟨rfl, target_startScan _ _ _ _ _⟩
    ⟨(h.insideChunk (.inl hp)).1, hn⟩ (h.no_cause hp)

theorem Block.Inv.payloadLost (hp : b.phase = .sSendChunk) : b.txAbort.Inv :=
  Block.ScannerOk.inv_aborted (h.scanner.congr rfl rfl rfl rfl) rfl (h.no_byte hp) (h.no_scan hp) (by simp)

theorem Block.Inv.sizeLost (hp : b.phase = .sAwaitReady) : b.matched.txAbort.Inv :=
  Block.ScannerOk.inv_aborted (h.scanner.matched.congr rfl rfl rfl rfl) rfl (h.no_byte hp) rfl (by simp)

/-- In the wait for a chunk's ACK the whole chunk has been sent (R172). -/
theorem Block.Inv.chunkSent (hp : b.phase = .sAwaitChunkAck) :
    b.idx < nchunks b.len ∧ b.off = chunkEnd b.len b.idx := by
  have hprog := h.progress
  simpa only [Block.progressOk, hp] using hprog

theorem Block.Inv.nextChunk (hp : b.phase = .sAwaitChunkAck) (hn : b.idx + 1 < nchunks b.len) :
    b.matched.commitChunk.nextChunk.enterSendChunk.Inv :=
  Block.ScannerOk.inv_inChunk (h.scanner.matched.congr rfl rfl rfl rfl) (.inl ⟨rfl, h.no_byte hp⟩) rfl
    (insideChunk_start hn rfl) (h.no_cause hp)

theorem Block.Inv.lastChunk (hp : b.phase = .sAwaitChunkAck) (hn : ¬ b.idx + 1 < nchunks b.len) :
    b.matched.commitChunk.enterImageOk.Inv := by
  obtain ⟨hidx, hoff⟩ := h.chunkSent hp
  exact startScan_inv _ _ _ _ (h.no_byte hp) rfl ⟨rfl, target_startScan _ _ _ _ _, rfl⟩
    (hoff.trans (chunkEnd_last hidx hn)) (h.no_cause hp)

theorem Block.Inv.imageOk (hp : b.phase = .sAwaitImageOk) : b.matched.enterDone.Inv := by
  have hprog := h.progress
  simp only [Block.progressOk, hp] at hprog
  exact Block.ScannerOk.inv (h.scanner.matched.congr rfl rfl rfl rfl) rfl (by simp [Block.matched, h.no_byte hp])
    (waitOk_of_idle rfl rfl) hprog (h.no_cause hp)

theorem Block.Inv.timeoutAbort {k : Cause}
    (hk : (b.phase, k) ∈ [(Phase.sAwaitSizeAck, Cause.sizeAckTimeout), (.sAwaitSizeOk, .sizeOkTimeout),
      (.sAwaitImageOk, .imageOkTimeout)]) : ((b.closeScan .timedOut).abort k).Inv := by
  have hph : b.phase ≠ .rReceiveImage := by rintro e; simp [e] at hk
  have hc : k ≠ .none ∧ k ≠ .allocFailure := by
    constructor <;> rintro rfl <;> simp at hk
  exact Block.ScannerOk.inv_aborted (h.scanner.timedOut.congr rfl rfl rfl rfl) rfl (h.not_held hph) rfl hc

theorem Block.Inv.retransmit (hp : b.phase = .sAwaitChunkAck) : (b.closeScan .timedOut).retransmit.Inv :=
  Block.ScannerOk.inv_inChunk (h.scanner.timedOut.congr rfl rfl rfl rfl) (.inl ⟨rfl, h.no_byte hp⟩) rfl
    (insideChunk_start (h.chunkSent hp).1 rfl) (h.no_cause hp)

/-! ### The receiver's moves -/

theorem Block.Inv.receive (hs : b.smode = .idle) : Block.Inv { b.beginReceive with phase := .rReceiveSize } :=
  Block.ScannerOk.inv (h.scanner.congr rfl rfl rfl rfl) rfl nofun hs ⟨rfl, show (0 : DWord) < 8 by decide⟩ rfl

/-- Where the size field stands (R203). -/
theorem Block.Inv.sizeProgress (hp : b.phase = .rReceiveSize) : b.idx = 0 ∧ b.off < 8 := by
  have hprog := h.progress
  simpa only [Block.progressOk, hp] using hprog

theorem Block.Inv.sizeByte {x : Byte} (hp : b.phase = .rReceiveSize) (hn : b.off + 1 ≠ 8) : (b.takeSizeByte x).Inv := by
  obtain ⟨hidx, hoff⟩ := h.sizeProgress hp
  have hlt : b.off + 1 < 8 := by bv_omega
  have hs : b.smode = .idle := h.no_scan hp
  exact Block.ScannerOk.inv (h.scanner.congr rfl rfl rfl rfl) h.steady h.heldPhase (by simp [Block.waitOk, hp, hs])
    (by simpa [Block.progressOk, hp, hidx] using hlt) (causeOk_congr h.causes rfl rfl)

theorem Block.Inv.sizeLast {x : Byte} (hp : b.phase = .rReceiveSize) :
    (b.takeSizeByte x).beginConfirmSize.enterAllocWait.Inv :=
  Block.ScannerOk.inv (h.scanner.congr rfl rfl rfl rfl) rfl (by simp [h.no_byte hp])
    (h.no_scan hp) ⟨rfl, rfl⟩ (h.no_cause hp)

theorem Block.Inv.sizeRestart (hp : b.phase = .rReceiveSize) : b.restartSize.Inv := by
  have hs : b.smode = .idle := h.no_scan hp
  exact Block.ScannerOk.inv (h.scanner.congr rfl rfl rfl rfl) h.steady h.heldPhase (by simp [Block.waitOk, hp, hs])
    (by simp [Block.progressOk, hp, (h.sizeProgress hp).1]) (causeOk_congr h.causes rfl rfl)

theorem Block.Inv.allocProgress (hp : b.phase = .rAllocWait) : b.idx = 0 ∧ b.off = 0 := by
  have hprog := h.progress
  simpa only [Block.progressOk, hp] using hprog

theorem Block.Inv.alloc (hp : b.phase = .rAllocWait) (hl : b.len ≠ 0) :
    Block.Inv { b with phase := .rReceiveImage } := by
  obtain ⟨hidx, hoff⟩ := h.allocProgress hp
  have hlt : b.idx < nchunks b.len := by
    rw [hidx]
    exact (BitVec.pos_iff_ne_zero _).2 (mt nchunks_eq_zero.1 hl)
  exact Block.ScannerOk.inv_inChunk (h.scanner.congr rfl rfl rfl rfl) (.inr rfl)
    (h.no_scan hp) (insideChunk_start hlt (by rw [hoff, hidx]; rfl))
    (h.no_cause hp)

/-- The receiver's end, once OFF has reached LEN (R214). -/
theorem Block.Inv.handoff {a : Block} (ha : a.tlen = b.tlen ∧ a.cur = b.cur ∧ a.smode = b.smode ∧ a.sres = b.sres)
    (hs : b.smode = .idle) (hh : a.held = false) (hoff : a.off = a.len) (hc : a.cause = .none) :
    a.beginConfirmImage.enterHandoff.Inv := by
  obtain ⟨htlen, hcur, hsmode, hsres⟩ := ha
  exact Block.ScannerOk.inv (h.scanner.congr htlen hcur hsmode hsres) rfl (by simp [hh]) (hsmode.trans hs) hoff hc

theorem Block.Inv.allocEmpty (hp : b.phase = .rAllocWait) (hl : b.len = 0) : b.beginConfirmImage.enterHandoff.Inv :=
  h.handoff ⟨rfl, rfl, rfl, rfl⟩ (h.no_scan hp) (h.no_byte hp)
    ((h.allocProgress hp).2.trans hl.symm) (h.no_cause hp)

theorem Block.Inv.halt (hp : b.phase = .rAllocWait) : b.halt.Inv :=
  Block.ScannerOk.inv (h.scanner.congr rfl rfl rfl rfl) rfl (by simp [h.no_byte hp])
    (h.no_scan hp) trivial rfl

section
variable (hp : b.phase = .rReceiveImage)
include hp

theorem Block.Inv.hold {x : Byte} : (b.holdByte x).Inv :=
  Block.ScannerOk.inv_inChunk (h.scanner.congr rfl rfl rfl rfl) (.inr hp) (h.no_scan hp)
    (h.insideChunk (.inr hp)) (h.no_cause hp)

theorem Block.Inv.chunkRestart : b.restartChunk.Inv :=
  Block.ScannerOk.inv_inChunk (h.scanner.congr rfl rfl rfl rfl) (.inr hp) (h.no_scan hp)
    (insideChunk_start (h.insideChunk (.inr hp)).1 rfl) (h.no_cause hp)

theorem Block.Inv.take (hn : b.off + 1 ≠ chunkEnd b.len b.idx) : b.release.Inv := by
  have hin := h.insideChunk (.inr hp)
  exact Block.ScannerOk.inv_inChunk (h.scanner.congr rfl rfl rfl rfl) (.inr hp)
    (h.no_scan hp) ⟨hin.1, insideChunk_next hin hn⟩ (h.no_cause hp)

theorem Block.Inv.takeChunk (hn : b.off + 1 = chunkEnd b.len b.idx) (hl : b.off + 1 ≠ b.len) :
    b.release.commitChunk.nextChunk.Inv := by
  have hidx := (h.insideChunk (.inr hp)).1
  have hmore : b.idx + 1 < nchunks b.len := by
    by_contra hlast
    exact hl (hn.trans (chunkEnd_last hidx hlast))
  exact Block.ScannerOk.inv_inChunk (h.scanner.congr rfl rfl rfl rfl) (.inr hp)
    (h.no_scan hp)
    (insideChunk_start hmore (hn.trans (chunkEnd_next hmore hidx))) (h.no_cause hp)

theorem Block.Inv.takeLast (hl : b.off + 1 = b.len) : b.release.commitChunk.beginConfirmImage.enterHandoff.Inv :=
  h.handoff ⟨rfl, rfl, rfl, rfl⟩ (h.no_scan hp) rfl hl
    (h.no_cause hp)

end

theorem Block.Inv.cleared : b.cleared.Inv :=
  Block.ScannerOk.inv (h.scanner.congr rfl rfl rfl rfl) rfl nofun trivial trivial rfl

end

theorem Block.beginSend_inv (b : Block) : b.beginSend.Inv :=
  startScan_inv .rdy _ .unbounded 0 rfl rfl ⟨rfl, target_startScan _ _ _ _ _⟩ ⟨rfl, rfl⟩ rfl

/-! ### Every move, and every step -/

theorem Block.Move.inv {c : Option Instr} {a b : Block} (hm : Block.Move c a b) (h : a.Inv) : b.Inv := by
  cases hm with
  | stay => exact h
  | crcInit => exact h.congr rfl rfl rfl rfl rfl rfl rfl rfl rfl rfl rfl rfl rfl
  | crcByte => exact h.congr rfl rfl rfl rfl rfl rfl rfl rfl rfl rfl rfl rfl rfl
  | aim v l hp hs hl => exact h.aim hp hs (hl h.tlenLe)
  | scan m hp ht => exact h.scan hp ht
  | cursor x hs hx => exact h.cursor hs hx
  | matchedAlone hw => exact h.matchedAlone hw
  | timeoutAlone hb hw => exact h.timeoutAlone hb hw
  | send => exact a.beginSend_inv
  | sizeSent hp => exact h.sizeSent hp
  | sizeLost hp => exact h.sizeLost hp
  | sizeAcked hp => exact h.sizeAcked hp
  | firstChunk hp hn => exact h.firstChunk hp hn
  | noChunk hp hn => exact h.noChunk hp hn
  | payload x hp hn => exact h.payload hp hn
  | payloadLast x hp hn => exact h.payloadLast hp hn
  | payloadLost hp => exact h.payloadLost hp
  | nextChunk hp hn => exact h.nextChunk hp hn
  | lastChunk hp hn => exact h.lastChunk hp hn
  | imageOk hp => exact h.imageOk hp
  | timeoutAbort k hk => exact h.timeoutAbort hk
  | retransmit hp => exact h.retransmit hp
  | receive _ hs => exact h.receive hs
  | sizeByte x hp hn => exact h.sizeByte hp hn
  | sizeLast x hp _ => exact h.sizeLast hp
  | sizeRestart hp => exact h.sizeRestart hp
  | alloc hp hl => exact h.alloc hp hl
  | allocEmpty hp hl => exact h.allocEmpty hp hl
  | noalloc hp => exact h.halt hp
  | hold x hp _ => exact h.hold hp
  | chunkRestart hp _ => exact h.chunkRestart hp
  | take hp _ hn => exact h.take hp hn
  | takeChunk hp _ hn hl => exact h.takeChunk hp hn hl
  | takeLast hp _ _ hl => exact h.takeLast hp hl
  | clear => exact h.cleared

/-- The invariant reads nothing that agreeing blocks may differ in. -/
theorem Block.Agrees.inv {a b : Block} (e : a.Agrees b) (h : a.Inv) : b.Inv :=
  h.congr e.tgt e.tlen e.cur e.smode e.sres e.phase e.cause e.held e.len e.idx e.off e.acc e.expcrc

/-- Any reset meets the invariant (R270). -/
theorem Block.reset_inv (p : Params) (n : Nat) : (Block.reset p n).Inv :=
  Block.ScannerOk.inv (.of_aimed (Nat.zero_le _) rfl rfl rfl) rfl nofun trivial trivial rfl

/-- Settles O58: a step is a reset or a move, and each keeps the invariant. -/
theorem everyStepKeepsTheInvariant : Obligations.EveryStepKeepsTheInvariant := by
  intro s t h hstep
  obtain ⟨-, n, ht⟩ | ⟨c, ⟨m, hm, he⟩, -⟩ := step_moves hstep
  · exact ht ▸ Block.reset_inv s.par n
  · exact he.inv (hm.inv h)

/-! ## Consequences of the moves -/

/-- CRC_REG changes only by CRC.INIT and CRC.BYTE (R28, R44, R110). -/
theorem Block.Move.crcReg {c : Option Instr} {a b : Block} (hm : Block.Move c a b) :
    b.crcReg = a.crcReg ∨ (c = some .crcInit ∧ b.crcReg = crcInitial) ∨
      ∃ x, c = some (.crcByte x) ∧ b.crcReg = crcUpd a.crcReg x := by
  cases hm with
  | crcInit => exact .inr (.inl ⟨rfl, rfl⟩)
  | crcByte x => exact .inr (.inr ⟨x, rfl, rfl⟩)
  | _ => exact .inl rfl

/-- Settles O14. -/
theorem crcRegChangesOnlyByItsCommands : Obligations.CrcRegChangesOnlyByItsCommands := by
  intro s t hstep
  obtain ⟨hr, -⟩ | ⟨c, ⟨m, hm, he⟩, hc⟩ := step_moves hstep
  · exact .inr (.inl hr)
  · rw [he.crcReg]
    obtain h | ⟨rfl, h⟩ | ⟨x, rfl, h⟩ := hm.crcReg
    · exact .inl h
    · exact .inr (.inr (.inl ⟨hc _ rfl, h⟩))
    · exact .inr (.inr (.inr ⟨x, hc _ rfl, h⟩))

/-- The three waits that a TIMEOUT aborts (R166). -/
theorem phase_of_timeoutAbort {p : Phase} {k : Cause}
    (h : (p, k) ∈ [(Phase.sAwaitSizeAck, Cause.sizeAckTimeout), (.sAwaitSizeOk, .sizeOkTimeout),
      (.sAwaitImageOk, .imageOkTimeout)]) : p = .sAwaitSizeAck ∨ p = .sAwaitSizeOk ∨ p = .sAwaitImageOk := by
  simp only [List.mem_cons, Prod.mk.injEq, List.not_mem_nil, or_false] at h
  exact h.imp And.left (Or.imp And.left And.left)

/-- IDLE is where a terminal phase is left for (R230). -/
theorem Phase.idle_follows {p : Phase} (h : p.terminal = true) : p = .idle ∨ .idle ∈ p.follows := by
  revert h
  cases p <;> decide

/-- A move keeps the phase or goes to one that may follow it (R24, R175), and only ARB.CLEAR leaves a terminal phase
other than IDLE (R230). -/
theorem Block.Move.phase {c : Option Instr} {a b : Block} (hm : Block.Move c a b) :
    b.phase = a.phase ∨
      b.phase ∈ a.phase.follows ∧ (a.phase.terminal = true → a.phase = .idle ∨ c = some .arbClear) := by
  cases hm with
  | send hp | sizeSent hp | sizeLost hp | sizeAcked hp | firstChunk hp | noChunk hp | payloadLast _ hp | payloadLost hp
  | nextChunk hp | lastChunk hp | imageOk hp | retransmit hp | receive hp | sizeLast _ hp | alloc hp | allocEmpty hp
  | noalloc hp | takeLast hp => exact .inr (by simp [hp, Phase.follows, Phase.terminal])
  | timeoutAbort k hk =>
    obtain hp | hp | hp := phase_of_timeoutAbort hk <;> exact .inr (by simp [hp, Phase.follows, Phase.terminal])
  | clear hp =>
    obtain hi | hf := Phase.idle_follows hp
    · exact .inl hi.symm
    · exact .inr ⟨hf, fun _ => .inr rfl⟩
  | _ => exact .inl rfl

/-- IDX leaves the chunk in hand only by the match of its ACK (R170). -/
theorem Block.Move.idx {c : Option Instr} {a b : Block} (hm : Block.Move c a b)
    (h : a.phase = .sSendChunk ∨ a.phase = .sAwaitChunkAck) :
    b.idx = a.idx ∨
      a.phase = .sAwaitChunkAck ∧ b.phase = .sSendChunk ∧ b.sres = .matched ∧ b.idx = a.idx + 1 := by
  cases hm with
  | nextChunk hp => exact .inr ⟨hp, rfl, rfl, rfl⟩
  | send hp | firstChunk hp | noChunk hp | receive hp | sizeLast _ hp | takeChunk hp => simp [hp] at h
  | clear hp => obtain h | h := h <;> simp [h, Phase.terminal] at hp
  | _ => exact .inl rfl

/-- Settles O34: the moves that change the phase or IDX, one by one. -/
theorem phasesFollowTheProtocol : Obligations.PhasesFollowTheProtocol := by
  intro s t _ hstep hreset
  obtain ⟨hr, -⟩ | ⟨c, ⟨m, hm, he⟩, hc⟩ := step_moves hstep
  · exact absurd hr hreset
  rw [he.phase, he.idx, he.sres]
  refine ⟨hm.phase.imp_right And.left, fun hterm hidle hne => ?_, hm.idx⟩
  obtain hkept | ⟨-, hclear⟩ := hm.phase
  · exact absurd hkept hne
  · exact hc _ ((hclear hterm).resolve_left hidle)

/-! ## The sender's checksum -/

/-- What `SenderSum` says in S_SEND_CHUNK and S_AWAIT_CHUNK_ACK (R45, R173). -/
structure Block.ChunkSums (image : List Byte) (b : Block) : Prop where
  length : image.length = b.len.toNat
  snap : b.snap = crcRun crcInitial (image.take (chunkStart b.idx).toNat)
  acc : b.acc = crcRun crcInitial (image.take b.off.toNat)

theorem SenderSum.chunkSums {image : List Byte} {b : Block} (h : SenderSum image b)
    (hp : b.phase = .sSendChunk ∨ b.phase = .sAwaitChunkAck) : b.ChunkSums image := by
  obtain hp | hp := hp <;>
  · simp only [SenderSum, hp] at h
    obtain ⟨hlen, hsnap, hacc⟩ := h
    exact ⟨hlen, hsnap, hacc⟩

theorem Block.ChunkSums.senderSum {image : List Byte} {b : Block} (h : b.ChunkSums image)
    (hp : b.phase = .sSendChunk ∨ b.phase = .sAwaitChunkAck) : SenderSum image b := by
  obtain hp | hp := hp <;>
  · simp only [SenderSum, hp]
    exact ⟨h.length, h.snap, h.acc⟩

/-- `SenderSum` reads the phase and five registers. -/
theorem SenderSum.congr {image : List Byte} {a b : Block} (h : SenderSum image a) (hphase : b.phase = a.phase)
    (hlen : b.len = a.len) (hidx : b.idx = a.idx) (hoff : b.off = a.off) (hacc : b.acc = a.acc)
    (hsnap : b.snap = a.snap) (hexpcrc : b.expcrc = a.expcrc) : SenderSum image b := by
  unfold SenderSum at *
  rw [hphase, hlen, hidx, hoff, hacc, hsnap, hexpcrc]
  exact h

/-- In every other phase `SenderSum` says nothing. -/
theorem senderSum_of_other {image : List Byte} {b : Block} {p : Phase} (hp : b.phase = p)
    (h : p ∉ [.sAwaitReady, .sAwaitSizeAck, .sAwaitSizeOk, .sSendChunk, .sAwaitChunkAck, .sAwaitImageOk, .sDone] := by
      decide) : SenderSum image b := by
  unfold SenderSum
  rw [hp]
  cases p <;> simp_all

/-- The waits of the size field know the image's length (R160). -/
theorem SenderSum.length_eq {image : List Byte} {b : Block} (h : SenderSum image b)
    (hp : b.phase = .sAwaitReady ∨ b.phase = .sAwaitSizeAck ∨ b.phase = .sAwaitSizeOk) :
    image.length = b.len.toNat := by
  obtain hp | hp | hp := hp <;> simpa only [SenderSum, hp] using h

/-- The payload byte at OFF takes ACC one byte of the image further (R172, R173). -/
theorem Block.ChunkSums.countPayload {image : List Byte} {b : Block} {x : Byte} (h : b.ChunkSums image)
    (hin : b.insideChunk) (hx : image[b.off.toNat]? = some x) : (b.countPayload x).ChunkSums image := by
  refine ⟨h.length, h.snap, ?_⟩
  obtain ⟨-, -, hlt⟩ := hin
  have hadd : (b.off + 1).toNat = b.off.toNat + 1 := by bv_omega
  rw [Block.countPayload_acc, Block.countPayload_off, hadd, List.take_add_one, hx, Option.toList_some, crcRun_snoc,
    h.acc]

/-- Each chunk's bytes are committed as the bytes of the image before the next chunk (R45, R163). -/
theorem Block.ChunkSums.nextChunk {image : List Byte} {b : Block} (h : b.ChunkSums image) (hi : b.Inv)
    (hp : b.phase = .sAwaitChunkAck) (hn : b.idx + 1 < nchunks b.len) :
    b.matched.commitChunk.nextChunk.enterSendChunk.ChunkSums image := by
  obtain ⟨hidx, hoff⟩ := hi.chunkSent hp
  have hacc := h.acc
  rw [hoff, chunkEnd_next hn hidx] at hacc
  exact ⟨h.length, hacc, hacc⟩

/-- After the last chunk ACC is the register of the whole image (R163, R173). -/
theorem Block.ChunkSums.acc_last {image : List Byte} {b : Block} (h : b.ChunkSums image) (hi : b.Inv)
    (hp : b.phase = .sAwaitChunkAck) (hn : ¬ b.idx + 1 < nchunks b.len) : b.acc = crcRun crcInitial image := by
  obtain ⟨hidx, hoff⟩ := hi.chunkSent hp
  rw [h.acc, hoff, chunkEnd_last hidx hn, ← h.length, List.take_length]

/-- Every move keeps the sender's sums, given the controller's duties for ARB.SEND and TX.BYTE (R284). -/
theorem Block.Move.senderSum {image : List Byte} {c : Option Instr} {a b : Block} (hm : Block.Move c a b) (hi : a.Inv)
    (h : SenderSum image a) (hsend : c = some .arbSend → image.length = a.arg.toNat)
    (hpay : ∀ x, c = some (.txByte x) → a.phase = .sSendChunk → image[a.off.toNat]? = some x) : SenderSum image b := by
  cases hm with
  | send => exact hsend rfl
  | sizeSent hp => exact h.length_eq (.inl hp)
  | sizeAcked hp => exact h.length_eq (.inr (.inl hp))
  | firstChunk hp _ => exact Block.ChunkSums.senderSum ⟨h.length_eq (.inr (.inr hp)), rfl, rfl⟩ (.inl rfl)
  | noChunk hp hn =>
    have hlen := h.length_eq (.inr (.inr hp))
    rw [nchunks_eq_zero.1 hn] at hlen
    rw [List.length_eq_zero_iff.1 hlen]
    rfl
  | payload x hp _ =>
    have hsums := (h.chunkSums (.inl hp)).countPayload (hi.insideChunk (.inl hp)) (hpay x rfl hp)
    exact hsums.senderSum (.inl hp)
  | payloadLast x hp _ =>
    have hsums := (h.chunkSums (.inl hp)).countPayload (hi.insideChunk (.inl hp)) (hpay x rfl hp)
    exact Block.ChunkSums.senderSum ⟨hsums.length, hsums.snap, hsums.acc⟩ (.inr rfl)
  | nextChunk hp hn => exact ((h.chunkSums (.inr hp)).nextChunk hi hp hn).senderSum (.inl rfl)
  | lastChunk hp hn => exact congrArg crcFinal ((h.chunkSums (.inr hp)).acc_last hi hp hn)
  | retransmit hp =>
    have hsums := h.chunkSums (.inr hp)
    exact Block.ChunkSums.senderSum ⟨hsums.length, hsums.snap, hsums.snap⟩ (.inl rfl)
  | imageOk hp =>
    simp only [SenderSum, hp] at h
    exact h
  | payloadLost | sizeLost | timeoutAbort => exact senderSum_of_other (p := .sAborted) rfl
  | clear => exact senderSum_of_other (p := .idle) rfl
  | receive => exact senderSum_of_other (p := .rReceiveSize) rfl
  | sizeLast => exact senderSum_of_other (p := .rAllocWait) rfl
  | alloc => exact senderSum_of_other (p := .rReceiveImage) rfl
  | allocEmpty | takeLast => exact senderSum_of_other (p := .rHandoff) rfl
  | noalloc => exact senderSum_of_other (p := .rHalted) rfl
  | sizeByte _ hp | sizeRestart hp | hold _ hp | chunkRestart hp | take hp | takeChunk hp =>
    exact senderSum_of_other hp
  | _ => exact h.congr rfl rfl rfl rfl rfl rfl rfl

/-- Settles O35: a reset ends in IDLE, and every move keeps the sums. -/
theorem senderChecksumIsOfTheImage : Obligations.SenderChecksumIsOfTheImage := by
  intro image s t hi h hduty hstep
  obtain ⟨hsend, hpay⟩ := hduty
  obtain ⟨-, n, ht⟩ | ⟨c, ⟨m, hm, he⟩, hc⟩ := step_moves hstep
  · exact senderSum_of_other (p := .idle) (by rw [ht]; rfl)
  · have hsum := hm.senderSum hi h (fun e => hsend (hc _ e)) fun x e => hpay x (hc _ e)
    exact hsum.congr he.phase he.len he.idx he.off he.acc he.snap he.expcrc

/-! ## The registers that only the controller writes -/

theorem offset_of_ofOffset? {off : Nat} {r : Reg} (h : Reg.ofOffset? off = some r) : off = r.offset := by
  unfold Reg.ofOffset? at h
  split at h
  case h_26 => cases h
  all_goals
    obtain rfl := Option.some.inj h
    rfl

theorem Frame.block {s t : State} (h : Frame s t) : BlockFrame s.blk t.blk :=
  ⟨h.arg, h.tmoSizeAck, h.tmoSizeOk, h.tmoChunk, h.tmoImageOk, h.irqEn, h.irqPend⟩

/-- The parameters, and the registers that only the controller writes: a step leaves them, resets, or writes one
register (R22, R49, R50, R67). -/
theorem step_controllerRegs {s t : State} (h : step s = .next t) :
    t.par = s.par ∧
      (BlockFrame s.blk t.blk ∨ s.script.head? = some .reset ∨
        ∃ r v, s.script.head? = some (.writeOf r v) ∧ t.blk = s.blk.writeReg v r) := by
  cases step_cases h with
  | still _ e => exact ⟨by rw [e], .inl (e ▸ .refl _)⟩
  | append _ _ _ e => exact ⟨by rw [e], .inl (e ▸ .refl _)⟩
  | rx rest _ e =>
    have hf := rxStep_frame { s with script := rest }
    rw [← e] at hf
    split at hf
    · exact ⟨hf.par, .inl hf.block⟩
    · exact ⟨hf.par, .inl hf.block⟩
  | reset _ hs e => exact ⟨by rw [e]; rfl, .inr (.inl (by rw [hs]; rfl))⟩
  | read _ _ _ _ e => exact ⟨by rw [e], .inl (e ▸ .refl _)⟩
  | command w rest _ e =>
    obtain ⟨u, hu, hf⟩ := command_frame w { s with script := rest }
    rw [hu] at e
    obtain rfl := Host.Outcome.next.inj e
    exact ⟨hf.par, .inl hf.block⟩
  | write off v r rest hs _ hr _ e =>
    refine ⟨by rw [e]; rfl, .inr (.inr ⟨r, v, ?_, by rw [e]; rfl⟩)⟩
    rw [hs, offset_of_ofOffset? hr]
    rfl
  | writeReserved _ _ _ _ _ _ e => exact ⟨by rw [e], .inl (e ▸ .refl _)⟩

/-- Settles O53: the frame of a step, and of the write of each register. -/
theorem controllerRegistersChangeOnlyByWrites : Obligations.ControllerRegistersChangeOnlyByWrites := by
  intro s t h
  obtain ⟨hpar, hf | hr | ⟨r, v, hs, ht⟩⟩ := step_controllerRegs h
  · exact ⟨hpar, .inr ⟨.inl hf.arg, .inl hf.irqEn, .inl hf.tmoSizeAck, .inl hf.tmoSizeOk, .inl hf.tmoChunk,
      .inl hf.tmoImageOk⟩⟩
  · exact ⟨hpar, .inl hr⟩
  · refine ⟨hpar, .inr ?_⟩
    rw [ht]
    cases r with
    | argLo => exact ⟨.inr ⟨v, .inl hs⟩, .inl rfl, .inl rfl, .inl rfl, .inl rfl, .inl rfl⟩
    | argHi => exact ⟨.inr ⟨v, .inr hs⟩, .inl rfl, .inl rfl, .inl rfl, .inl rfl, .inl rfl⟩
    | irqEn => exact ⟨.inl rfl, .inr ⟨v, hs⟩, .inl rfl, .inl rfl, .inl rfl, .inl rfl⟩
    | tmoSizeAck => exact ⟨.inl rfl, .inl rfl, .inr ⟨v, hs⟩, .inl rfl, .inl rfl, .inl rfl⟩
    | tmoSizeOk => exact ⟨.inl rfl, .inl rfl, .inl rfl, .inr ⟨v, hs⟩, .inl rfl, .inl rfl⟩
    | tmoChunk => exact ⟨.inl rfl, .inl rfl, .inl rfl, .inl rfl, .inr ⟨v, hs⟩, .inl rfl⟩
    | tmoImageOk => exact ⟨.inl rfl, .inl rfl, .inl rfl, .inl rfl, .inl rfl, .inr ⟨v, hs⟩⟩
    | _ => exact ⟨.inl rfl, .inl rfl, .inl rfl, .inl rfl, .inl rfl, .inl rfl⟩

theorem Irq.bit_lt (q : Irq) : q.bit < 8 := by cases q <;> decide

/-- A write of IRQ_PEND clears the bits written as 1 (R247). -/
theorem pending_writeReg_irqPend (q : Irq) (v : Word) (b : Block) :
    (b.writeReg v .irqPend).pending q = (b.pending q && !v.getLsbD q.bit) := by
  simp [Block.pending, Block.writeReg, q.bit_lt]

/-- Settles O46. -/
theorem pendingBitsClearOnlyByWrite : Obligations.PendingBitsClearOnlyByWrite := by
  intro s t q h hq
  obtain ⟨-, hf | hr | ⟨r, v, hs, ht⟩⟩ := step_controllerRegs h
  · exact .inl (hf.irqPend q.bit hq)
  · exact .inr (.inl hr)
  · rw [ht]
    cases r with
    | irqPend =>
      cases hv : v.getLsbD q.bit with
      | false => exact .inl (by rw [pending_writeReg_irqPend, hq, hv]; rfl)
      | true => exact .inr (.inr ⟨v, hs, hv⟩)
    | _ => exact .inl hq

/-! ## The register map -/

/-- A field placed above a word that ends below it adds its weighted value. -/
theorem toNat_or_field {a : Word} {w n : Nat} (f : BitVec w) (ha : a.toNat < 2 ^ n) (hn : w + n ≤ 32) :
    (a ||| (f.setWidth 32 <<< n)).toNat = a.toNat + f.toNat * 2 ^ n := by
  have hf : f.toNat * 2 ^ n < 2 ^ 32 :=
    Nat.lt_of_lt_of_le (Nat.mul_lt_mul_of_pos_right f.isLt (Nat.two_pow_pos n))
      (by rw [← Nat.pow_add]; exact Nat.pow_le_pow_right (by decide) hn)
  have hf' : f.toNat < 2 ^ 32 := Nat.lt_of_le_of_lt (Nat.le_mul_of_pos_right _ (Nat.two_pow_pos n)) hf
  rw [BitVec.toNat_or, BitVec.toNat_shiftLeft, BitVec.toNat_setWidth, Nat.mod_eq_of_lt hf', Nat.shiftLeft_eq,
    Nat.mod_eq_of_lt hf, Nat.or_comm, ← Nat.shiftLeft_eq, ← Nat.shiftLeft_add_eq_or_of_lt ha, Nat.shiftLeft_eq,
    Nat.add_comm]

/-- STATUS as the weighted sum of its fields (R54). -/
theorem status_toNat (b : Block) :
    b.status.toNat = b.phase.code.toNat + b.cause.code.toNat * 2 ^ 5 + b.smode.code.toNat * 2 ^ 8 +
      b.sres.code.toNat * 2 ^ 10 + b.heldBit.toNat * 2 ^ 12 + b.errcode.code.toNat * 2 ^ 16 := by
  have hp := b.phase.code.isLt
  have hc := b.cause.code.isLt
  have hm := b.smode.code.isLt
  have hr := b.sres.code.isLt
  have hh := b.heldBit.isLt
  have h0 : (b.phase.code.setWidth 32).toNat = b.phase.code.toNat := by
    rw [BitVec.toNat_setWidth]
    omega
  have h1 := toNat_or_field (n := 5) b.cause.code (by rw [h0]; exact hp) (by decide)
  have h2 := toNat_or_field (n := 8) b.smode.code (by rw [h1, h0]; omega) (by decide)
  have h3 := toNat_or_field (n := 10) b.sres.code (by rw [h2, h1, h0]; omega) (by decide)
  have h4 := toNat_or_field (n := 12) b.heldBit (by rw [h3, h2, h1, h0]; omega) (by decide)
  have h5 := toNat_or_field (n := 16) b.errcode.code (by rw [h4, h3, h2, h1, h0]; omega) (by decide)
  rw [Block.status, h5, h4, h3, h2, h1, h0]

/-- SCAN as the weighted sum of its fields (R55). -/
theorem scanReg_toNat (b : Block) : b.scanReg.toNat = b.cur.toNat + b.tlen.toNat * 2 ^ 8 := by
  have hcur := b.cur.isLt
  have h0 : (b.cur.setWidth 32).toNat = b.cur.toNat := by
    rw [BitVec.toNat_setWidth]
    omega
  rw [Block.scanReg, toNat_or_field (n := 8) b.tlen (by rw [h0]; omega) (by decide), h0]

/-- A field of a word, by its value. -/
theorem extractLsb'_eq_of_toNat {v : Word} {n w : Nat} {f : BitVec w} (h : v.toNat / 2 ^ n % 2 ^ w = f.toNat) :
    v.extractLsb' n w = f :=
  BitVec.eq_of_toNat_eq (by rw [BitVec.extractLsb'_toNat, Nat.shiftRight_eq_div_pow, h])

theorem extractLsb'_eq_zero {v : Word} {n w : Nat} (h : v.toNat / 2 ^ n % 2 ^ w = 0) : v.extractLsb' n w = 0 :=
  extractLsb'_eq_of_toNat (h.trans BitVec.toNat_zero.symm)

theorem phase_code_mem (p : Phase) : (p, p.code) ∈ phaseCodes := by cases p <;> decide

theorem cause_code_mem (c : Cause) : (c, c.code) ∈ causeCodes := by cases c <;> decide

theorem mode_code_mem (m : ScanMode) : (m, m.code) ∈ modeCodes := by cases m <;> decide

theorem result_code_mem (r : ScanResult) : (r, r.code) ∈ resultCodes := by cases r <;> decide

theorem error_code_mem (e : ErrCode) : (e, e.code) ∈ errorCodes := by cases e <;> decide

/-- Settles O48: each field is a quotient and a remainder of the weighted sum. -/
theorem statusAndScanFields : Obligations.StatusAndScanFields := by
  intro b
  have hs : b.regRead 0x0C = b.status := rfl
  have hc : b.regRead 0x24 = b.scanReg := rfl
  have hst := status_toNat b
  have hsc := scanReg_toNat b
  have h1 := b.phase.code.isLt
  have h2 := b.cause.code.isLt
  have h3 := b.smode.code.isLt
  have h4 := b.sres.code.isLt
  have h5 := b.heldBit.isLt
  have h6 := b.errcode.code.isLt
  have h7 := b.cur.isLt
  have h8 := b.tlen.isLt
  rw [hs, hc]
  refine ⟨?phase, ?cause, ?mode, ?result, ?held, ?gap, ?error, ?high, ?cur, ?scanGap, ?tlen, ?scanHigh⟩
  case phase =>
    rw [extractLsb'_eq_of_toNat (f := b.phase.code) (by omega)]
    exact phase_code_mem _
  case cause =>
    rw [extractLsb'_eq_of_toNat (f := b.cause.code) (by omega)]
    exact cause_code_mem _
  case mode =>
    rw [extractLsb'_eq_of_toNat (f := b.smode.code) (by omega)]
    exact mode_code_mem _
  case result =>
    rw [extractLsb'_eq_of_toNat (f := b.sres.code) (by omega)]
    exact result_code_mem _
  case held =>
    have hbit : b.status.toNat / 2 ^ 12 % 2 = b.heldBit.toNat := by omega
    rw [BitVec.getLsbD, Nat.testBit_eq_decide_div_mod_eq, hbit, Block.heldBit]
    cases b.held <;> rfl
  case error =>
    rw [extractLsb'_eq_of_toNat (f := b.errcode.code) (by omega)]
    exact error_code_mem _
  case cur => exact extractLsb'_eq_of_toNat (by omega)
  case tlen => exact extractLsb'_eq_of_toNat (by omega)
  all_goals exact extractLsb'_eq_zero (by omega)

theorem Reg.offset_le (r : Reg) : r.offset ≤ 0x60 := by cases r <;> decide

/-- The reserved offsets begin at 0x64 (R52). -/
theorem ofOffset?_of_reserved {off : Nat} (h : 0x64 ≤ off) : Reg.ofOffset? off = none := by
  cases hr : Reg.ofOffset? off with
  | none => rfl
  | some r =>
    have hoff := offset_of_ofOffset? hr
    have := r.offset_le
    omega

theorem regRead_of_reserved {off : Nat} (h : 0x64 ≤ off) (b : Block) : b.regRead off = 0 := by
  rw [Block.regRead, ofOffset?_of_reserved h]

/-- The two halves of a 64-bit register (R52, R70). -/
theorem highWord_append_lowWord (v : DWord) : highWord v ++ lowWord v = v :=
  (BitVec.extractLsb'_append_extractLsb'_eq_extractLsb' (start₂ := 32) rfl).trans BitVec.extractLsb'_eq_self

/-- Settles O49. -/
theorem registerMapReads : Obligations.RegisterMapReads := fun b =>
  ⟨rfl, rfl, rfl, rfl, highWord_append_lowWord b.arg, rfl, rfl, rfl, rfl, highWord_append_lowWord b.off,
    highWord_append_lowWord b.len, highWord_append_lowWord b.idx, rfl, rfl, rfl, rfl, rfl, rfl, rfl,
    fun _ h _ _ => regRead_of_reserved h b⟩

theorem lowWord_joinWords (high low : Word) : lowWord (joinWords high low) = low := by
  ext i hi
  have hi' : i < 64 := by omega
  simp [lowWord, joinWords, hi, hi']

theorem highWord_joinWords (high low : Word) : highWord (joinWords high low) = high := by
  ext i hi
  have hsum : 32 + i < 64 := by omega
  simp [highWord, joinWords, hsum, BitVec.getLsbD_eq_getElem hi]

/-! ## Accesses of the controller -/

/-- An aligned 32-bit access inside the window is served (R65, R71). -/
theorem step_access {s : State} {off : Nat} {k : AccessKind} {rest : List Stimulus}
    (hs : s.script = .access ⟨4, off, k⟩ :: rest) (ha : off % 4 = 0) (hw : off < 0x100) :
    step s = State.serve ⟨4, off, k⟩ { s with script := rest } := by
  rw [step_cons hs]
  simp [State.stimulate, State.access, Access.defined, Access.inWindow, ha, hw]

/-- Settles O50: a served read touches only the list of values read. -/
theorem readsChangeNoBlockState : Obligations.ReadsChangeNoBlockState := fun _ _ _ hs ha hw => step_access hs ha hw

/-- The block after a write at an offset other than that of CMD (R52, R67). -/
def Block.written (off : Nat) (v : Word) (b : Block) : Block :=
  match Reg.ofOffset? off with
  | some r => b.writeReg v r
  | none => b

theorem Block.written_of_some {off : Nat} {r : Reg} (h : Reg.ofOffset? off = some r) (v : Word) (b : Block) :
    b.written off v = b.writeReg v r := by
  rw [Block.written, h]

theorem Block.written_of_none {off : Nat} (h : Reg.ofOffset? off = none) (v : Word) (b : Block) :
    b.written off v = b := by
  rw [Block.written, h]

/-- A write at an offset other than that of CMD changes the block as `Block.written` says. -/
theorem regWrite_eq_written {off : Nat} (h : off ≠ 0x10) (v : Word) (s : State) :
    s.regWrite off v = .next (s.mapBlk (Block.written off v)) := by
  unfold State.regWrite
  split
  · exact absurd (ofOffset?_eq_cmd ‹_›) h
  · rename_i hr
    rw [State.mapBlk, State.mapBlk, Block.written_of_some hr]
  · rename_i hr
    rw [State.mapBlk, Block.written_of_none hr]

/-- The offsets that a write changes the block at (R52). -/
theorem Block.written_of_readOnly {off : Nat} (h : off ∉ [0x04, 0x08, 0x14, 0x18, 0x54, 0x58, 0x5C, 0x60]) (v : Word)
    (b : Block) : b.written off v = b := by
  cases hr : Reg.ofOffset? off with
  | none => exact Block.written_of_none hr v b
  | some r =>
    rw [Block.written_of_some hr]
    rw [offset_of_ofOffset? hr] at h
    cases r with
    | irqEn | irqPend | argLo | argHi | tmoSizeAck | tmoSizeOk | tmoChunk | tmoImageOk => exact absurd h (by decide)
    | _ => rfl

/-- Settles O51. -/
theorem writesChangeOnlyTheirRegister : Obligations.WritesChangeOnlyTheirRegister := by
  intro s off v rest hs ha hw hcmd
  refine ⟨s.blk.written off v, ?_, ?_, ?_, ?_, ?_, ?_, ?_, ?_, ?_, fun h => Block.written_of_readOnly h v s.blk⟩
  · rw [step_access hs ha hw]
    exact regWrite_eq_written hcmd v _
  · rintro rfl
    exact ⟨rfl, lowWord_joinWords _ _, highWord_joinWords _ _⟩
  · rintro rfl
    exact ⟨rfl, highWord_joinWords _ _, lowWord_joinWords _ _⟩
  all_goals
    rintro rfl
    rfl

/-! ## ARB.NOALLOC -/

/-- STATUS of a halted receiver with nothing else to show (R54, R208). -/
theorem status_halt {b : Block} (hs : b.smode = .idle) (hr : b.sres = .none) (hh : b.held = false)
    (he : b.errcode = .none) : b.halt.status = 0x000000B9 := by
  simp only [Block.status, Block.heldBit, Block.halt_phase, Block.halt_cause, Block.halt_smode, Block.halt_sres,
    Block.halt_held, Block.halt_errcode, hs, hr, hh, he]
  rfl

/-- Settles O40. -/
theorem arbNoallocHaltsTheReceiver : Obligations.ArbNoallocHaltsTheReceiver := by
  have halts {s : State} (hp : s.blk.phase = .rAllocWait) : exec .arbNoalloc s = .next (s.mapBlk Block.halt) :=
    if_pos hp
  refine ⟨fun s hp => halts hp, fun s hp => if_neg hp, fun s t hp hs hr hh he ht => ?_, by decide⟩
  obtain rfl := Host.Outcome.next.inj ((halts hp).symm.trans ht)
  exact status_halt hs hr hh he

end Sys2Proof.Machine

namespace Sys2Proof.Machine

/-! ## What a failed emission leaves alone -/

/-- A state without what the outcomes of TX transactions write: the TX side of the channel, TXERRS, and the values
read, which may show TXERRS (R48, R62, R216). -/
def State.progress (s : State) : State :=
  { s with
    blk := { s.blk with txerrs := 0 }, chan := { rxq := s.chan.rxq, tx := [], draws := [], fresh := 0 }, reads := [] }

/-- An outcome without the same. -/
def outcomeProgress : Host.Outcome State Fault Refusal → Host.Outcome State Fault Refusal
  | .next s => .next s.progress
  | .fault r => .fault r
  | .refused r => .refused r

theorem outcomeProgress_next {s t : State} (h : s.progress = t.progress) :
    outcomeProgress (.next s) = outcomeProgress (.next t) := congrArg Host.Outcome.next h

/-- What two states of the same progress share. -/
theorem State.progress_eq_iff {s t : State} :
    s.progress = t.progress ↔ s.par = t.par ∧ s.script = t.script ∧ s.chan.rxq = t.chan.rxq ∧
      { s.blk with txerrs := 0 } = { t.blk with txerrs := 0 } := by
  simp only [State.progress, State.mk.injEq, Chan.mk.injEq, and_true]
  tauto

/-- An operation whose progress depends on the progress alone. -/
def Blind (op : State → State) : Prop := ∀ s, (op s).progress = (op s.progress).progress

theorem Blind.comp {f g : State → State} (hf : Blind f) (hg : Blind g) : Blind fun s => g (f s) := fun s =>
  calc (g (f s)).progress
    _ = (g (f s).progress).progress := hg _
    _ = (g (f s.progress).progress).progress := by rw [hf s]
    _ = (g (f s.progress)).progress := (hg _).symm

/-- A counted emission, of whatever bytes and outcome, makes no progress (R216). -/
theorem emitCounted_progress (bs : List Byte) (s : State) : (s.emitCounted bs).progress = s.progress := by
  rw [emitCounted_errCount]
  rfl

theorem emitCounted_blind (bs : State → List Byte) : Blind fun s => s.emitCounted (bs s) := fun s =>
  (emitCounted_progress (bs s) s).trans (emitCounted_progress (bs s.progress) s.progress).symm

/-- A choice on a condition that both sides share, seen through `φ`. -/
theorem map_ite_congr {α β : Type} (φ : α → β) {c : Prop} [Decidable c] {x y u v : α}
    (ht : c → φ x = φ u) (he : ¬ c → φ y = φ v) : φ (if c then x else y) = φ (if c then u else v) := by
  rw [apply_ite φ, apply_ite φ]
  exact ite_congr rfl ht he

/-! ### The receiver's operations -/

theorem confirmSize_blind : Blind State.confirmSize :=
  (((emitCounted_blind fun _ => tok .ack 0).comp (g := State.mapBlk Block.beginConfirmSize) fun _ => rfl).comp
    (emitCounted_blind fun s => tok .ok (crcNumber s.blk.expcrc))).comp (g := State.mapBlk Block.enterAllocWait)
    fun _ => rfl

theorem confirmImage_blind : Blind State.confirmImage :=
  (Blind.comp (f := State.mapBlk Block.beginConfirmImage) (fun _ => rfl)
    (emitCounted_blind fun s => tok .ok (crcNumber s.blk.expcrc))).comp (g := State.mapBlk Block.enterHandoff)
    fun _ => rfl

theorem requestImage_blind : Blind State.requestImage :=
  (Blind.comp (f := State.mapBlk fun b => { b.beginReceive with phase := .rRequestImage }) (fun _ => rfl)
    (emitCounted_blind fun _ => tok .rdy (BitVec.ofNat 64 chunkSize))).comp
    (g := State.mapBlk fun b => { b with phase := .rReceiveSize }) fun _ => rfl

theorem allocated_blind : Blind State.allocated := fun s =>
  map_ite_congr State.progress
    (fun _ => confirmImage_blind (s.mapBlk fun b => { b with phase := .rReceiveImage })) fun _ => rfl

theorem chunkFilled_blind : Blind State.chunkFilled := fun s => by
  have acked : Blind fun s => (s.emitCounted (tok .ack s.blk.idx)).mapBlk Block.commitChunk :=
    (emitCounted_blind fun s => tok .ack s.blk.idx).comp fun _ => rfl
  by_cases h : s.blk.off = s.blk.len
  · rw [chunkFilled_of_last h, chunkFilled_of_last (s := s.progress) h]
    exact acked.comp confirmImage_blind s
  · rw [chunkFilled_of_more h, chunkFilled_of_more (s := s.progress) h]
    exact acked.comp (g := State.mapBlk Block.nextChunk) (fun _ => rfl) s

theorem takeByte_blind : Blind State.takeByte := fun s =>
  map_ite_congr State.progress (fun _ => chunkFilled_blind (s.mapBlk Block.release)) fun _ => rfl

/-! ### RX events outside the sender role -/

theorem scanEnd_progress {s : State} (h : s.blk.phase.role ≠ .sender) (r : ScanEnd) :
    (s.scanEnd r).progress = (s.progress.scanEnd r).progress := by
  rw [scanEnd_of_not_sender h, scanEnd_of_not_sender (s := s.progress) h]
  rfl

theorem scanUnsuccessful_progress {s : State} (h : s.blk.phase.role ≠ .sender) :
    s.scanUnsuccessful.progress = s.progress.scanUnsuccessful.progress :=
  map_ite_congr State.progress
    (fun _ => map_ite_congr State.progress
      (fun _ => scanEnd_progress (s := s.mapBlk fun b => { b with budget := 0 }) h .timedOut) fun _ => rfl) fun _ => rfl

theorem scanEvent_progress {s : State} (h : s.blk.phase.role ≠ .sender) (e : RxEvent) :
    (s.scanEvent e).progress = (s.progress.scanEvent e).progress := by
  cases e with
  | byte x =>
    exact map_ite_congr State.progress
      (fun _ => scanEnd_progress (s := s.mapBlk fun b => { b with cur := b.nextCursor x }) h .matched) fun _ => rfl
  | error => exact scanUnsuccessful_progress h
  | quiet => exact scanUnsuccessful_progress h

theorem sizeEvent_blind (e : RxEvent) : Blind (State.sizeEvent e) := fun s => by
  cases e with
  | byte x =>
    exact map_ite_congr State.progress (fun _ => confirmSize_blind (s.mapBlk (Block.takeSizeByte x)))
      fun _ => rfl
  | error => rfl
  | quiet => rfl

theorem imageEvent_blind (e : RxEvent) : Blind (State.imageEvent e) := fun s => by
  cases e <;> rfl

theorem onRxEvent_progress {s : State} (h : s.blk.phase.role ≠ .sender) (e : RxEvent) :
    (s.onRxEvent e).progress = (s.progress.onRxEvent e).progress :=
  map_ite_congr State.progress (fun _ => scanEvent_progress h e) fun _ =>
    map_ite_congr State.progress (fun _ => sizeEvent_blind e s) fun _ => imageEvent_blind e s

theorem rxStep_progress {s : State} (h : s.blk.phase.role ≠ .sender) :
    s.rxStep.progress = s.progress.rxStep.progress :=
  map_ite_congr State.progress (fun _ => onRxEvent_progress (s := s.dropRx) h s.chan.rxEvent) fun _ => rfl

/-! ### Commands, accesses and steps -/

/-- ARB.RECV in any phase (R200). -/
theorem arbRecv_progress (s : State) :
    outcomeProgress (exec .arbRecv s) = outcomeProgress (exec .arbRecv s.progress) :=
  map_ite_congr outcomeProgress (fun _ => rfl) fun _ => outcomeProgress_next (requestImage_blind s)

theorem exec_progress_of_raise {i : Instr} {c : ErrCode} {s : State} (h : exec i s = s.raise c)
    (hp : exec i s.progress = s.progress.raise c) :
    outcomeProgress (exec i s) = outcomeProgress (exec i s.progress) := by
  rw [h, hp]
  rfl

theorem exec_progress (i : Instr) {s : State} (h : s.blk.phase.role = .receiver) :
    outcomeProgress (exec i s) = outcomeProgress (exec i s.progress) := by
  have hidle : s.blk.phase ≠ .idle := fun e => by rw [e] at h; cases h
  have hsend : s.blk.phase ≠ .sSendChunk := fun e => by rw [e] at h; cases h
  have hbusy : s.blk.unitBusy = true := (unitBusy_iff _).2 (.inl hidle)
  cases i with
  | nop | crcInit | crcByte => rfl
  | tokEmit k =>
    cases hk : TokKind.ofByte? k with
    | none => apply exec_progress_of_raise (c := .badKind) <;> simp only [exec, execTokEmit, hk]
    | some kind =>
      simp only [exec, execTokEmit, hk]
      exact map_ite_congr outcomeProgress (fun hi => absurd hi hidle) fun _ => rfl
  | scnTok k =>
    cases hk : TokKind.ofByte? k with
    | none => apply exec_progress_of_raise (c := .badKind) <;> simp only [exec, execScnTok, hk]
    | some kind =>
      simp only [exec, execScnTok, hk]
      exact map_ite_congr outcomeProgress (fun _ => rfl) fun _ => rfl
  | scnClr | scnPush | scnRun | scnRunb | arbSend =>
    exact map_ite_congr outcomeProgress (fun _ => rfl) (absurd hbusy)
  | arbRecv => exact arbRecv_progress s
  | arbAlloc => exact map_ite_congr outcomeProgress (fun _ => outcomeProgress_next (allocated_blind s)) fun _ => rfl
  | arbNoalloc => exact map_ite_congr outcomeProgress (fun _ => rfl) fun _ => rfl
  | rxTake =>
    exact map_ite_congr outcomeProgress (fun _ => map_ite_congr outcomeProgress
      (fun _ => outcomeProgress_next (takeByte_blind s)) fun _ => rfl) fun _ => rfl
  | arbClear => exact map_ite_congr outcomeProgress (fun _ => rfl) fun _ => rfl
  | txByte x =>
    exact map_ite_congr outcomeProgress (fun hi => absurd hi hidle) fun _ =>
      map_ite_congr outcomeProgress (fun hs => absurd hs hsend) fun _ => rfl

theorem command_progress (w : Word) {s : State} (h : s.blk.phase.role = .receiver) :
    outcomeProgress (s.command w) = outcomeProgress (s.progress.command w) := by
  cases hd : decode w with
  | ok i =>
    rw [command_of_ok hd, command_of_ok hd]
    exact exec_progress i h
  | error e =>
    rw [command_of_error hd, command_of_error hd]
    rfl

/-- No write of a register reads or writes TXERRS (R52). -/
theorem regWrite_progress (off : Nat) (v : Word) {s : State} (h : s.blk.phase.role = .receiver) :
    outcomeProgress (s.regWrite off v) = outcomeProgress (s.progress.regWrite off v) := by
  unfold State.regWrite
  cases Reg.ofOffset? off with
  | none => rfl
  | some r =>
    cases r with
    | cmd => exact command_progress v h
    | _ => rfl

theorem access_progress (a : Access) {s : State} (h : s.blk.phase.role = .receiver) :
    outcomeProgress (s.access a) = outcomeProgress (s.progress.access a) := by
  refine map_ite_congr outcomeProgress (fun _ => map_ite_congr outcomeProgress (fun _ => ?_)
    fun _ => rfl) fun _ => rfl
  obtain ⟨width, off, kind⟩ := a
  cases kind with
  | read => rfl
  | write v => exact regWrite_progress off v h

/-- The progress of a receiver's step, and of the step that makes a receiver, is that of its progress. -/
theorem step_progress {s : State} (h : s.blk.phase.role = .receiver ∨ s.script.head? = some (pushInstr .arbRecv))
    (hr : s.script.head? ≠ some .reset) : outcomeProgress (step s) = outcomeProgress (step s.progress) := by
  match hs : s.script with
  | [] =>
    rw [step_nil hs, step_nil (s := s.progress) hs]
    rfl
  | x :: rest =>
    rw [hs] at h hr
    rw [step_cons hs, step_cons (s := s.progress) hs]
    obtain h | h := h
    · cases x with
      | access a => exact access_progress a (s := { s with script := rest }) h
      | append e => rfl
      | rx => exact outcomeProgress_next (rxStep_progress (s := { s with script := rest }) (by simp [h]))
      | reset => exact absurd rfl hr
    · obtain rfl := Option.some.inj h
      have hd : decode (encode .arbRecv) = .ok .arbRecv := rfl
      rw [pushInstr, stimulate_commandOf, stimulate_commandOf, command_of_ok hd, command_of_ok hd]
      exact arbRecv_progress { s with script := rest }

/-- Settles O44: two states of the same progress step to the same progress. -/
theorem receiverProgressIgnoresTxFailures : Obligations.ReceiverProgressIgnoresTxFailures := by
  intro s₁ s₂ t₁ t₂ hpar hscript hrxq hblk hrole hreset h₁ h₂
  have hs : s₁.progress = s₂.progress := State.progress_eq_iff.2 ⟨hpar, hscript, hrxq, hblk⟩
  have hphase : s₁.blk.phase = s₂.blk.phase := congrArg (fun s => s.blk.phase) hs
  have ht : outcomeProgress (.next t₁) = outcomeProgress (.next t₂) := by
    calc outcomeProgress (.next t₁)
      _ = outcomeProgress (step s₁.progress) := by rw [← h₁, step_progress hrole hreset]
      _ = outcomeProgress (step s₂.progress) := by rw [hs]
      _ = outcomeProgress (.next t₂) := by
        rw [← h₂, step_progress (s := s₂) (by rwa [← hphase, ← hscript]) (by rwa [← hscript])]
  exact (State.progress_eq_iff.1 (Host.Outcome.next.inj ht)).2

/-! ## Accesses the model refuses -/

/-- BASE is a multiple of 4, so an address is aligned exactly when its offset is (R60, log 4). -/
theorem address_mod_four (a : Access) (p : Params) : a.address p % 4 = a.off % 4 := by
  simp only [Access.address, Params.base]
  omega

theorem access_defined_iff (a : Access) (p : Params) : a.defined = true ↔ a.width = 4 ∧ a.address p % 4 = 0 := by
  simp [Access.defined, address_mod_four]

theorem access_of_undefined {a : Access} (h : ¬ a.defined = true) (s : State) :
    s.access a = .refused .undefinedAccess := if_neg h

/-- A defined access is served or faults; what it serves answers a next state (R60, R71). -/
theorem access_ne_refused {a : Access} (h : a.defined = true) (s : State) :
    s.access a ≠ .refused .undefinedAccess := by
  have hserve : s.serve a ≠ .refused .undefinedAccess := by
    obtain ⟨width, off, kind⟩ := a
    cases kind with
    | read => nofun
    | write v =>
      by_cases hcmd : off = 0x10
      · obtain ⟨t, ht, _⟩ := command_frame v s
        subst hcmd
        exact fun e => nomatch ht.symm.trans e
      · exact fun e => nomatch (regWrite_eq_written hcmd v s).symm.trans e
  rw [State.access, if_pos h]
  split
  · exact hserve
  · nofun

/-- Settles O52. -/
theorem undefinedAccessIsRefused : Obligations.UndefinedAccessIsRefused := by
  intro s a rest hs
  rw [show step s = State.access a { s with script := rest } from step_cons hs]
  have hd := access_defined_iff a s.par
  refine ⟨fun h => access_of_undefined ?_ _, fun hw ha => access_ne_refused (hd.2 ⟨hw, ha⟩) _⟩
  rw [hd]
  tauto

/-! ## Single steps: CMD, reset, and a turn of a block that is not reading -/

/-- Settles O5. -/
theorem stepRunsTheDecodedCommand : Obligations.StepRunsTheDecodedCommand := by
  refine ⟨fun s w rest hs => ⟨fun i hi => ?_, fun e he => ?_, rfl⟩, fun s => step_nil⟩
  · rw [step_command hs, command_of_ok hi]
  · rw [step_command hs, command_of_error he]

/-- A turn of the RX port in a state that is not reading changes nothing (R63, log 16). -/
theorem step_rx_of_not_reading {s : State} {rest : List Stimulus} (hs : s.script = .rx :: rest)
    (hr : s.blk.reading = false) : step s = .next { s with script := rest } := by
  rw [step_rx hs, rxStep_of_not_reading (s := { s with script := rest }) hr]

/-- Settles O55. -/
theorem resetLeavesTheChannel : Obligations.ResetLeavesTheChannel := by
  refine ⟨fun s rest hs => ⟨_, step_cons hs, rfl, rfl, rfl, rfl, rfl, rfl, rfl⟩, fun s rest hs hp hm => ?_⟩
  exact step_rx_of_not_reading hs (not_reading hm (by simp [hp]) (by simp [hp]))

/-! ## The RX queue -/

theorem reading_iff (b : Block) :
    b.reading = true ↔ b.smode ≠ .idle ∨ b.phase = .rReceiveSize ∨ (b.phase = .rReceiveImage ∧ b.held = false) := by
  simp [Block.reading, or_assoc]

/-- One turn of the RX port takes the head of the queue exactly when the block is reading (R61, R63). -/
theorem rxStep_rxq (s : State) :
    s.rxStep.chan.rxq = if s.blk.reading then s.chan.rxq.tail else s.chan.rxq := by
  rw [(rxStep_frame s).rxq]
  split <;> rfl

/-- What a step does to the RX queue, by its stimulus (R61). -/
theorem step_rxq {s t : State} (h : step s = .next t) :
    (s.script.head? = some .rx ∧ t.chan.rxq = if s.blk.reading then s.chan.rxq.tail else s.chan.rxq) ∨
    (∃ e, s.script.head? = some (.append e) ∧ t.chan.rxq = s.chan.rxq ++ [e]) ∨
    (s.script.head? ≠ some .rx ∧ (∀ e, s.script.head? ≠ some (.append e)) ∧ t.chan.rxq = s.chan.rxq) := by
  cases step_cases h with
  | still hs e => exact .inr (.inr ⟨by simp [hs], by simp [hs], by rw [e]⟩)
  | append x rest hs e => exact .inr (.inl ⟨x, by rw [hs]; rfl, by rw [e]⟩)
  | rx rest hs e => exact .inl ⟨by rw [hs]; rfl, by rw [e]; exact rxStep_rxq { s with script := rest }⟩
  | reset rest hs e => exact .inr (.inr ⟨by simp [hs], by simp [hs], by rw [e]; rfl⟩)
  | read off rest hs _ e => exact .inr (.inr ⟨by simp [hs], by simp [hs], by rw [e]⟩)
  | command w rest hs e =>
    obtain ⟨u, hu, hf⟩ := command_frame w { s with script := rest }
    rw [hu] at e
    obtain rfl := Host.Outcome.next.inj e
    exact .inr (.inr ⟨by rw [hs]; nofun, by rw [hs]; nofun, hf.rxq⟩)
  | write off v r rest hs _ _ _ e => exact .inr (.inr ⟨by simp [hs], by simp [hs], by rw [e]; rfl⟩)
  | writeReserved off v rest hs _ _ e => exact .inr (.inr ⟨by simp [hs], by simp [hs], by rw [e]⟩)

/-- Settles O56. -/
theorem rxStepConsumesOneEvent : Obligations.RxStepConsumesOneEvent :=
  ⟨reading_iff, fun _ h hs => ⟨fun hp => hs (h.no_scan hp), fun hp => hs (h.no_scan hp)⟩, fun _ _ => step_rxq,
    fun _ _ => step_rx_of_not_reading⟩

/-! ## The TX stream -/

theorem draw_of_cons {c : Chan} {d : TxDraw} {ds : List TxDraw} (h : c.draws = d :: ds) : c.draw = d := by
  rw [Chan.draw, h]

/-- What one transaction answers and sends under its draw (R62). -/
theorem emit_of_draw {s : State} {d : TxDraw} (h : s.chan.draw = d) (bs : List Byte) :
    s.txResult = drawResult d ∧ (s.emit bs).chan.tx = s.chan.tx ++ sentBytes bs d := by
  subst h
  exact ⟨rfl, rfl⟩

/-- A transaction with a listed draw consumes it (R62, log 2). -/
theorem emit_of_listed {s : State} {d : TxDraw} {ds : List TxDraw} (h : s.chan.draws = d :: ds) (bs : List Byte) :
    s.txResult = drawResult d ∧ (s.emit bs).chan.tx = s.chan.tx ++ sentBytes bs d ∧ (s.emit bs).chan.draws = ds := by
  obtain ⟨hr, ht⟩ := emit_of_draw (draw_of_cons h) bs
  exact ⟨hr, ht, by simp [h]⟩

/-- Settles O57: an `err k` sends the first `min k |bs|` bytes. -/
theorem txStreamOnlyGrows : Obligations.TxStreamOnlyGrows := by
  refine ⟨fun _ _ => step_tx_grows, fun s bs => ?_, fun s bs ds h => emit_of_listed h bs, fun s bs k ds h => ?_⟩
  · cases hd : s.chan.draw with
    | ok => exact .inl (emit_of_draw hd bs)
    | err k =>
      obtain ⟨hr, ht⟩ := emit_of_draw hd bs
      refine .inr ⟨hr, min k bs.length, Nat.min_le_right _ _, ht.trans ?_⟩
      rw [sentBytes, ← List.take_eq_take_min]
  · obtain ⟨hr, ht, hds⟩ := emit_of_listed h bs
    exact ⟨hr, ht, hds, fun hk => by rw [ht, sentBytes, List.take_of_length_le hk]⟩

/-! ## A scan that meets its target -/

/-- The state when a scan from the target's start has met `n` bytes of it and `q` is still queued (R128). -/
def State.scanned (s : State) (n : Nat) (q : List RxElem) : State :=
  { s with chan := { s.chan with rxq := q }, blk := { s.blk with cur := BitVec.ofNat 5 n } }

theorem State.scanned_zero {s : State} {q : List RxElem} (hc : s.blk.cur = 0) (hq : s.chan.rxq = q) :
    s.scanned 0 q = s := by
  subst hq
  rw [State.scanned, show BitVec.ofNat 5 0 = s.blk.cur from hc.symm]

/-- A turn on a byte takes it from the queue (R61). -/
theorem State.rxStep_scanned_byte {s : State} (hs : s.blk.smode ≠ .idle) (n : Nat) (x : Byte) (q : List RxElem) :
    (s.scanned n (.byte x :: q)).rxStep = (s.scanned n q).scanByte x :=
  rxStep_scan_byte (s := s.scanned n (.byte x :: q)) hs rfl

/-- The next byte of the target advances the cursor (R128). -/
theorem nextCursor_scanned {s : State} {n : Nat} {q : List RxElem} {x : Byte} (hn : n < 32)
    (hx : s.blk.target[n]? = some x) : (s.scanned n q).blk.nextCursor x = BitVec.ofNat 5 (n + 1) := by
  have hcur : (BitVec.ofNat 5 n).toNat = n := by
    rw [BitVec.toNat_ofNat]
    omega
  rw [nextCursor_of_match (b := (s.scanned n q).blk) (by rw [← hx]; exact congrArg (s.blk.target[·]?) hcur)]
  exact (BitVec.ofNat_add n 1).symm

section
variable {s : State} {n : Nat} {x : Byte} {q : List RxElem} (hs : s.blk.smode ≠ .idle)
  (hx : s.blk.target[n]? = some x)
include hs hx

/-- A byte of the target before its last (R128). -/
theorem State.rxStep_scanned (hn : n + 1 < s.blk.tlen.toNat) :
    (s.scanned n (.byte x :: q)).rxStep = s.scanned (n + 1) q := by
  have ht := s.blk.tlen.isLt
  have hcur := nextCursor_scanned (q := q) (by omega) hx
  have hmore : BitVec.ofNat 5 (n + 1) ≠ s.blk.tlen := fun e => by
    have he := congrArg BitVec.toNat e
    rw [BitVec.toNat_ofNat] at he
    omega
  rw [State.rxStep_scanned_byte hs, scanByte_of_more (hcur ▸ hmore), State.mapBlk, hcur]
  rfl

/-- The last byte of the target ends a standalone scan in MATCH (R128, R130). -/
theorem State.rxStep_scanned_last (hp : s.blk.phase = .idle) (hn : n + 1 = s.blk.tlen.toNat) :
    (s.scanned n (.byte x :: q)).rxStep = { s with
      chan := { s.chan with rxq := q }
      blk := { s.blk with
        cur := s.blk.tlen, sres := .matched, smode := .idle, irqPend := s.blk.irqPend ||| 0x01 } } := by
  have ht := s.blk.tlen.isLt
  have hcur : (s.scanned n q).blk.nextCursor x = s.blk.tlen := by
    rw [nextCursor_scanned (by omega) hx, hn, BitVec.ofNat_toNat, BitVec.setWidth_eq]
  have hw : s.blk.phase.scanWait = false := by rw [hp]; rfl
  rw [State.rxStep_scanned_byte hs, scanByte_of_end hcur, State.mapBlk, hcur, scanEnd_of_no_wait]
  · rfl
  · exact hw

end

/-- Turns of a block that is not reading change nothing (R63). -/
theorem rxTurns_of_not_reading {s : State} (h : s.blk.reading = false) (n : Nat) : s.rxTurns n = s := by
  induction n with
  | zero => rfl
  | succ n ih => rw [State.rxTurns, rxStep_of_not_reading h, ih]

/-- One more turn of the RX port, made last. -/
theorem rxTurns_succ (n : Nat) (s : State) : s.rxTurns (n + 1) = (s.rxTurns n).rxStep := rxTurns_add n 1 s

theorem arriving_cons (x : Byte) (s : List Byte) : arriving (x :: s) = .byte x :: arriving s := rfl

/-- Before its last byte, a scan has met as many bytes of its target as it has made reads (R132). -/
theorem State.rxTurns_scanned {s : State} {x : List Byte} (hs : s.blk.smode ≠ .idle)
    (hl : s.blk.tlen.toNat ≤ tokenMax) (hc : s.blk.cur = 0) (hq : s.chan.rxq = arriving (s.blk.target ++ x))
    {n : Nat} (hn : n < s.blk.target.length) :
    s.rxTurns n = s.scanned n (arriving (s.blk.target.drop n ++ x)) := by
  induction n with
  | zero => exact (State.scanned_zero hc hq).symm
  | succ n ih =>
    have hlt : n < s.blk.target.length := Nat.lt_of_succ_lt hn
    rw [rxTurns_succ, ih hlt, List.drop_eq_getElem_cons hlt, List.cons_append, arriving_cons]
    exact State.rxStep_scanned hs (List.getElem?_eq_getElem hlt) (target_length hl ▸ hn)

/-- Settles O25: each turn before the last meets one more byte of the target, and the turns past MATCH read nothing. -/
theorem scanReadsExactlyItsTarget : Obligations.ScanReadsExactlyItsTarget := by
  rintro s t x hp hs hl rfl hne hc hq
  have hlen := target_length hl
  refine ⟨fun n hn => ?_, fun n hn => ?_⟩
  · rw [State.rxTurns_scanned hs hl hc hq hn]
    refine ⟨rfl, Nat.mod_eq_of_lt ?_⟩
    simp only [tokenMax] at hl
    omega
  · obtain ⟨k, hk⟩ := Nat.exists_eq_succ_of_ne_zero (List.length_pos_of_ne_nil hne).ne'
    have hlt : k < s.blk.target.length := hk ▸ Nat.lt_succ_self k
    obtain ⟨m, rfl⟩ := Nat.exists_eq_add_of_le hn
    rw [rxTurns_add, hk, rxTurns_succ, State.rxTurns_scanned hs hl hc hq hlt, List.drop_eq_getElem_cons hlt,
      List.drop_eq_nil_of_le hk.le, List.cons_append, arriving_cons,
      State.rxStep_scanned_last hs (List.getElem?_eq_getElem hlt) hp (hk.symm.trans hlen)]
    exact rxTurns_of_not_reading (not_reading rfl (by simp [hp]) (by simp [hp])) m

/-! ## The sender's reaction to MATCH -/

/-- A token written over the start of the buffer (R131). -/
theorem writeTarget_tok_toList (k : TokKind) (n : DWord) (v : Vector Byte tokenMax) :
    (writeTarget (tok k n) 0 v).toList = tok k n ++ v.toList.drop (tok k n).length := by
  have hfit : 0 + (tok k n).length ≤ tokenMax := by simpa using tok_length_le k n
  rw [writeTarget_toList _ _ _ hfit, List.take_zero, List.nil_append, Nat.zero_add]

/-! `scan_end(MATCH)` followed by a reaction of the arbiter that sets an interrupt bit of its own (R130, R246). -/

theorem Block.txAbort_closeScan (b : Block) :
    (b.closeScan .matched).txAbort = { b with
      phase := .sAborted, cause := .txError, txerrs := satInc32 b.txerrs, smode := .idle, sres := .matched,
      irqPend := b.irqPend ||| 0x21 } := by
  rw [show (0x21 : Byte) = Irq.scanDone.mask ||| Irq.abort.mask from rfl, ← BitVec.or_assoc]
  rfl

theorem Block.enterDone_closeScan (b : Block) :
    (b.closeScan .matched).enterDone = { b with
      phase := .sDone, smode := .idle, sres := .matched, irqPend := b.irqPend ||| 0x11 } := by
  rw [show (0x11 : Byte) = Irq.scanDone.mask ||| Irq.done.mask from rfl, ← BitVec.or_assoc]
  rfl

theorem Block.enterSendChunk_closeScan (b : Block) :
    (b.closeScan .matched).enterSendChunk = { b with
      phase := .sSendChunk, acc := b.snap, off := chunkStart b.idx, smode := .idle, sres := .matched,
      irqPend := b.irqPend ||| 0x03 } := by
  rw [show (0x03 : Byte) = Irq.scanDone.mask ||| Irq.chunkReq.mask from rfl, ← BitVec.or_assoc]
  rfl

/-- The wait for the image's OK, whose token carries the checksum (R164). -/
theorem Block.enterImageOk_closeScan (b : Block) {sum : Half} (h : crcFinal b.acc = sum) :
    (b.closeScan .matched).enterImageOk = { b with
      phase := .sAwaitImageOk, expcrc := sum, smode := .bounded, sres := .none, cur := 0, budget := b.tmoImageOk,
      irqPend := b.irqPend ||| 0x01, tgt := writeTarget (tok .ok (crcNumber sum)) 0 b.tgt,
      tlen := BitVec.ofNat 5 (tok .ok (crcNumber sum)).length } := by
  subst h
  rfl

/-- Settles O30. -/
theorem senderReactsToMatch : Obligations.SenderReactsToMatch := by
  intro s
  refine ⟨fun hp hd => ?_, fun k hp hd => ?_, fun hp => ?_, fun hp hl => ?_, fun hp hl => ?_, fun hp hn => ?_,
    fun hp hn => ?_, fun hp => ?_⟩
  · refine ⟨_, ?_, writeTarget_tok_toList .ack 0 s.blk.tgt⟩
    rw [scanEnd_matched_awaitReady hp, sendSize_of_ok (s := s.mapBlk (Block.closeScan .matched)) hd]
    rfl
  · rw [scanEnd_matched_awaitReady hp, sendSize_of_err (s := s.mapBlk (Block.closeScan .matched)) hd]
    exact congrArg (fun b => { s with chan := s.chan.send (be8 s.blk.len), blk := b })
      (Block.txAbort_closeScan { s.blk with phase := .sSendSize })
  · refine ⟨_, ?_, writeTarget_tok_toList .ok (crcNumber s.blk.expcrc) s.blk.tgt⟩
    rw [scanEnd_matched_awaitSizeAck hp]
    rfl
  · rw [scanEnd_matched_awaitSizeOk hp, State.mapBlk_mapBlk, State.mapBlk,
      enterImage_of_chunks (b := s.blk.closeScan .matched) (mt nchunks_eq_zero.1 hl)]
    exact congrArg (fun b => { s with blk := b }) (Block.enterSendChunk_closeScan s.blk.beginImage)
  · refine ⟨_, ?_, writeTarget_tok_toList .ok 0 s.blk.tgt⟩
    rw [scanEnd_matched_awaitSizeOk hp, State.mapBlk_mapBlk, State.mapBlk,
      enterImage_of_empty (b := s.blk.closeScan .matched) (nchunks_eq_zero.2 hl)]
    have hsum : crcFinal s.blk.beginImage.acc = 0 := by
      rw [Block.beginImage_acc]
      decide
    exact congrArg (fun b => { s with blk := b }) (Block.enterImageOk_closeScan s.blk.beginImage hsum)
  · rw [scanEnd_matched_awaitChunkAck hp, State.mapBlk_mapBlk, State.mapBlk,
      chunkAcked_of_more (b := s.blk.closeScan .matched) hn]
    exact congrArg (fun b => { s with blk := b }) (Block.enterSendChunk_closeScan s.blk.commitChunk.nextChunk)
  · refine ⟨_, ?_, writeTarget_tok_toList .ok (crcNumber (crcFinal s.blk.acc)) s.blk.tgt⟩
    rw [scanEnd_matched_awaitChunkAck hp, State.mapBlk_mapBlk, State.mapBlk,
      chunkAcked_of_last (b := s.blk.closeScan .matched) hn]
    exact congrArg (fun b => { s with blk := b }) (Block.enterImageOk_closeScan s.blk.commitChunk rfl)
  · rw [scanEnd_matched_awaitImageOk hp, State.mapBlk_mapBlk, State.mapBlk, Block.enterDone_closeScan]

/-! ## The size field, byte by byte -/

/-- A byte of a value shifted up by one byte is the byte below it. -/
theorem extractLsb'_shift_byte (l : DWord) (x : Byte) {k : Nat} (h : k + 16 ≤ 64) :
    (l <<< 8 ||| x.setWidth 64).extractLsb' (k + 8) 8 = l.extractLsb' k 8 := by
  ext i hi
  have hin : k + 8 + i < 64 := by omega
  have hup : ¬ k + 8 + i < 8 := by omega
  have hbelow : k + 8 + i - 8 = k + i := by omega
  have hx : x.getLsbD (k + 8 + i) = false := BitVec.getLsbD_of_ge _ _ (by omega)
  simp [hin, hup, hbelow, hx, BitVec.getLsbD_eq_getElem (show k + i < 64 by omega)]

theorem extractLsb'_low_byte (l : DWord) (x : Byte) : (l <<< 8 ||| x.setWidth 64).extractLsb' 0 8 = x := by
  ext i hi
  have hin : i < 64 := by omega
  simp [hin, hi]

/-- LEN takes a size byte at its low end and loses its highest byte (R68, R203). -/
theorem be8_shift (l : DWord) (x : Byte) : be8 (l <<< 8 ||| x.setWidth 64) = (be8 l).drop 1 ++ [x] := by
  simp only [be8, List.drop_succ_cons, List.drop_zero, List.cons_append, List.nil_append]
  rw [extractLsb'_shift_byte l x (k := 48) (by decide), extractLsb'_shift_byte l x (k := 40) (by decide),
    extractLsb'_shift_byte l x (k := 32) (by decide), extractLsb'_shift_byte l x (k := 24) (by decide),
    extractLsb'_shift_byte l x (k := 16) (by decide), extractLsb'_shift_byte l x (k := 8) (by decide),
    extractLsb'_shift_byte l x (k := 0) (by decide), extractLsb'_low_byte]

/-- The block after the size bytes `s`, before any of them is seen to end the field (R203). -/
def Block.takeSizeBytes (b : Block) (s : List Byte) : Block := s.foldl (fun b x => b.takeSizeByte x) b

theorem Block.takeSizeBytes_snoc (b : Block) (s : List Byte) (x : Byte) :
    b.takeSizeBytes (s ++ [x]) = (b.takeSizeBytes s).takeSizeByte x := by
  simp [Block.takeSizeBytes]

/-- Size bytes leave the block reading the size field, and count into OFF, ACC and LEN (R203, R204). -/
theorem Block.takeSizeBytes_fields (b : Block) (s : List Byte) :
    (b.takeSizeBytes s).phase = b.phase ∧ (b.takeSizeBytes s).smode = b.smode ∧
      (b.takeSizeBytes s).acc = crcRun b.acc s ∧ (b.takeSizeBytes s).off = b.off + BitVec.ofNat 64 s.length ∧
      be8 (b.takeSizeBytes s).len = (be8 b.len ++ s).drop s.length := by
  have hbe8 : (be8 b.len).length = 8 := rfl
  induction s using List.reverseRecOn with
  | nil => simp [Block.takeSizeBytes]
  | append_singleton s x ih =>
    obtain ⟨hphase, hsmode, hacc, hoff, hlen⟩ := ih
    rw [Block.takeSizeBytes_snoc]
    refine ⟨hphase, hsmode, ?_, ?_, ?_⟩
    · rw [crcRun_snoc, ← hacc]
      rfl
    · rw [Block.takeSizeByte_off, hoff, List.length_append, BitVec.ofNat_add, BitVec.add_assoc]
      rfl
    · rw [Block.takeSizeByte_len, be8_shift, hlen, List.drop_drop, List.length_append, ← List.append_assoc]
      refine (List.drop_append_of_le_length ?_).symm
      rw [List.length_append, hbe8]
      omega

/-- A turn of the RX port on a byte of the size field (R203). -/
theorem rxStep_size_byte {s : State} (hp : s.blk.phase = .rReceiveSize) (hs : s.blk.smode = .idle) {x : Byte}
    {q : List RxElem} (hq : s.chan.rxq = .byte x :: q) :
    s.rxStep = State.sizeEvent (.byte x) { s with chan := { s.chan with rxq := q } } := by
  rw [rxStep_of_cons (reading_of_size hp) hq]
  exact onRxEvent_of_size (s := { s with chan := { s.chan with rxq := q } }) hs hp _

/-- Turns on bytes of the size field before its eighth (R203). -/
theorem rxTurns_size_bytes {bytes : List Byte} {q : List RxElem} {s : State} (hp : s.blk.phase = .rReceiveSize)
    (hs : s.blk.smode = .idle) (ho : s.blk.off.toNat + bytes.length < 8) (hq : s.chan.rxq = arriving bytes ++ q) :
    s.rxTurns bytes.length = { s with chan := { s.chan with rxq := q }, blk := s.blk.takeSizeBytes bytes } := by
  induction bytes generalizing s with
  | nil =>
    subst hq
    rfl
  | cons x bytes ih =>
    rw [List.length_cons] at ho ⊢
    have hoff : (s.blk.off + 1).toNat = s.blk.off.toNat + 1 := by bv_omega
    have hmore : s.blk.off + 1 ≠ 8 := by bv_omega
    have hq' : s.chan.rxq = .byte x :: (arriving bytes ++ q) := hq
    rw [State.rxTurns, rxStep_size_byte hp hs hq',
      sizeEvent_byte_of_more (s := { s with chan := { s.chan with rxq := arriving bytes ++ q } }) hmore]
    refine (ih ?_ ?_ ?_ ?_).trans ?_
    · exact hp
    · exact hs
    · rw [State.mapBlk_blk, Block.takeSizeByte_off, hoff]
      omega
    · rfl
    · rfl

/-- The turn on the last byte of the size field confirms it (R203, R205). -/
theorem rxStep_size_last {s : State} (hp : s.blk.phase = .rReceiveSize) (hs : s.blk.smode = .idle) {x : Byte}
    {q : List RxElem} (hq : s.chan.rxq = .byte x :: q) (ho : s.blk.off + 1 = 8) :
    s.rxStep.blk.phase = .rAllocWait ∧ s.rxStep.blk.len = (s.blk.takeSizeByte x).len ∧
      s.rxStep.blk.expcrc = crcFinal (s.blk.takeSizeByte x).acc ∧ s.rxStep.chan.rxq = q := by
  rw [rxStep_size_byte hp hs hq, sizeEvent_byte_of_last (s := { s with chan := { s.chan with rxq := q } }) ho]
  simp [State.confirmSize]

/-- Settles O38: seven turns on bytes inside the field, then the one that confirms it. -/
theorem sizeFieldDecodesBigEndian : Obligations.SizeFieldDecodesBigEndian := by
  intro s bytes q hp hs ho ha hlen hq
  obtain rfl | ⟨init, last, rfl⟩ := bytes.eq_nil_or_concat'
  · cases hlen
  have hinit : init.length = 7 := by simpa using hlen
  have hq' : s.chan.rxq = arriving init ++ .byte last :: q := by
    rw [hq]
    simp [arriving]
  have hseven := rxTurns_size_bytes hp hs (by simp [ho, hinit]) hq'
  rw [hinit] at hseven
  obtain ⟨hphase, hsmode, -, hoff, -⟩ := s.blk.takeSizeBytes_fields init
  obtain ⟨-, -, hacc, -, hbe8⟩ := s.blk.takeSizeBytes_fields (init ++ [last])
  rw [Block.takeSizeBytes_snoc] at hacc hbe8
  rw [rxTurns_succ, hseven]
  obtain ⟨hp', hl', he', hq'⟩ := rxStep_size_last (x := last) (q := q)
    (s := { s with chan := { s.chan with rxq := .byte last :: q }, blk := s.blk.takeSizeBytes init })
    (hphase.trans hp) (hsmode.trans hs) rfl (by rw [hoff, ho, hinit]; rfl)
  refine ⟨hp', ?_, ?_, hq'⟩
  · rw [hl', hbe8, hlen]
    exact List.drop_left' rfl
  · rw [he', hacc, ha]
    rfl

end Sys2Proof.Machine

namespace Sys2Proof.Machine

/-! ## The decoder and the encoder (R80 to R86) -/

/-- The row of a well-formed command in the opcode map is the command itself: its zero immediate passes the check of
format N (R81), and its kind the check of R82. -/
theorem decodeFields_of_wf {i : Instr} (h : i.wf = true) : decodeFields i.opcode i.imm8 = .ok i := by
  cases i with
  | tokEmit k | scnTok k => exact if_pos (of_decide_eq_true h)
  | crcByte | scnPush | txByte => rfl
  | nop | crcInit | scnClr | scnRun | scnRunb | arbSend | arbRecv | arbAlloc | arbNoalloc | rxTake | arbClear => rfl

/-- Settles O1: the fields of the encoded word lead to the command's own row of the opcode map. -/
theorem decodeOfEncodeIsIdentity : Obligations.DecodeOfEncodeIsIdentity := fun i h =>
  (decode_encode_fields i).trans (decodeFields_of_wf h)

/-! ### The checks of R85, one by one -/

/-- The second check of R85: an opcode outside the table has no row. -/
theorem decodeFields_of_bad_opcode {op : Byte} (h : op ∉ tableOpcodes) (imm : Byte) :
    decodeFields op imm = .error .badOpcode := by
  have hop : op.toNat ∉ tableOpcodes.map BitVec.toNat := fun hm =>
    h ((List.mem_map_of_injective BitVec.toNat_injective).1 hm)
  unfold decodeFields
  split
  on_goal 17 => rfl
  all_goals
    rename_i hrow
    exact absurd (by rw [hrow]; decide) hop

/-- The third check of R85: a format-N command with an immediate. -/
theorem decodeFields_of_reserved_imm {op imm : Byte} (h : op ∈ formatNOpcodes) (hi : imm ≠ 0) :
    decodeFields op imm = .error .reservedBits := by
  have hN (i : Instr) : decodeN imm i = .error .reservedBits := if_neg hi
  fin_cases h <;> exact hN _

/-- The fourth check of R85: a token kind above 2. -/
theorem decodeFields_of_bad_kind {op imm : Byte} (h : op ∈ kindOpcodes) (hi : 2 < imm.toNat) :
    decodeFields op imm = .error .badKind := by
  have hK (f : Byte → Instr) : decodeKind imm f = .error .badKind := if_neg (Nat.not_le.2 hi)
  fin_cases h <;> exact hK _

/-- The words that pass the checks of R85. -/
theorem wordRefusal_eq_none_iff (w : Word) :
    wordRefusal w = none ↔ rsvField w = 0 ∧ opField w ∈ tableOpcodes ∧
      (opField w ∈ formatNOpcodes → immField w = 0) ∧ (opField w ∈ kindOpcodes → (immField w).toNat ≤ 2) := by
  simp [wordRefusal, ite_eq_iff]

/-- The decoder refuses a word by the first check of R85 that fails. -/
theorem decode_of_wordRefusal {w : Word} {e : DecodeError} (h : wordRefusal w = some e) : decode w = .error e := by
  unfold wordRefusal at h
  split at h
  next hr =>
    cases h
    exact decode_of_rsv_ne hr
  next hr =>
    rw [decode_of_rsv_eq (not_not.1 hr)]
    split at h
    next hop =>
      cases h
      exact decodeFields_of_bad_opcode hop _
    split at h
    next hN =>
      cases h
      exact decodeFields_of_reserved_imm hN.1 hN.2
    split at h
    next hK =>
      cases h
      exact decodeFields_of_bad_kind hK.1 hK.2
    cases h

/-! ### Every legal pair of fields is a command's -/

theorem exists_command_of_formatN {op : Byte} (h : op ∈ formatNOpcodes) :
    ∃ i : Instr, i.wf = true ∧ i.opcode = op ∧ i.imm8 = 0 := by
  fin_cases h
  exacts [⟨.nop, rfl, rfl, rfl⟩, ⟨.crcInit, rfl, rfl, rfl⟩, ⟨.scnClr, rfl, rfl, rfl⟩, ⟨.scnRun, rfl, rfl, rfl⟩,
    ⟨.scnRunb, rfl, rfl, rfl⟩, ⟨.arbSend, rfl, rfl, rfl⟩, ⟨.arbRecv, rfl, rfl, rfl⟩, ⟨.arbAlloc, rfl, rfl, rfl⟩,
    ⟨.arbNoalloc, rfl, rfl, rfl⟩, ⟨.rxTake, rfl, rfl, rfl⟩, ⟨.arbClear, rfl, rfl, rfl⟩]

theorem exists_command_of_data {op : Byte} (h : op ∈ dataOpcodes) (imm : Byte) :
    ∃ i : Instr, i.wf = true ∧ i.opcode = op ∧ i.imm8 = imm := by
  fin_cases h
  exacts [⟨.crcByte imm, rfl, rfl, rfl⟩, ⟨.scnPush imm, rfl, rfl, rfl⟩, ⟨.txByte imm, rfl, rfl, rfl⟩]

theorem exists_command_of_kind {op imm : Byte} (h : op ∈ kindOpcodes) (hi : imm.toNat ≤ 2) :
    ∃ i : Instr, i.wf = true ∧ i.opcode = op ∧ i.imm8 = imm := by
  fin_cases h
  exacts [⟨.tokEmit imm, decide_eq_true hi, rfl, rfl⟩, ⟨.scnTok imm, decide_eq_true hi, rfl, rfl⟩]

/-- A word that passes the checks of R85 is the encoding of a well-formed command. -/
theorem exists_encode_eq {w : Word} (h : wordRefusal w = none) :
    ∃ i : Instr, i.wf = true ∧ i.opcode = opField w ∧ i.imm8 = immField w ∧ encode i = w := by
  obtain ⟨hrsv, hop, hN, hK⟩ := (wordRefusal_eq_none_iff w).1 h
  have hfields : ∃ i : Instr, i.wf = true ∧ i.opcode = opField w ∧ i.imm8 = immField w := by
    simp only [tableOpcodes, List.mem_append] at hop
    obtain (hop | hop) | hop := hop
    · rw [hN hop]
      exact exists_command_of_formatN hop
    · exact exists_command_of_data hop _
    · exact exists_command_of_kind hop (hK hop)
  obtain ⟨i, hwf, hi, himm⟩ := hfields
  exact ⟨i, hwf, hi, himm, by rw [encode, hi, himm, commandWord_of_fields hrsv]⟩

/-- Settles O2: a decoded word passes the checks, so it encodes a command, which by O1 is the one it decodes to. -/
theorem decodedWordIsItsEncoding : Obligations.DecodedWordIsItsEncoding := by
  intro w i hi
  cases hr : wordRefusal w with
  | some e =>
    rw [decode_of_wordRefusal hr] at hi
    cases hi
  | none =>
    obtain ⟨j, hwf, -, -, rfl⟩ := exists_encode_eq hr
    rw [decodeOfEncodeIsIdentity j hwf] at hi
    cases hi
    exact ⟨hwf, rfl⟩

/-- Settles O3: a word is refused by the first check that fails, and one that passes them all encodes a command. -/
theorem decoderChecksInOrder : Obligations.DecoderChecksInOrder := by
  refine fun w s => ⟨fun e he => ?_, fun h => ?_⟩
  · have hd := decode_of_wordRefusal he
    exact ⟨hd, command_of_error hd s⟩
  · obtain ⟨i, hwf, hop, himm, rfl⟩ := exists_encode_eq h
    exact ⟨i, decodeOfEncodeIsIdentity i hwf, hop, himm⟩

/-- Settles O4: nineteen fixed words, each decoded by evaluation. -/
theorem tableWordsDecode : Obligations.TableWordsDecode := by
  unfold Obligations.TableWordsDecode
  decide

/-! ## SCN.RUNB -/

theorem exec_scnRunb_of_busy {s : State} (h : s.blk.phase ≠ .idle ∨ s.blk.smode ≠ .idle) :
    exec .scnRunb s = .next (s.cmdError .busy) := if_pos ((unitBusy_iff _).2 h)

theorem exec_scnRunb_of_idle {s : State} (hp : s.blk.phase = .idle) (hs : s.blk.smode = .idle) :
    exec .scnRunb s = .next ((s.mapBlk fun b => { b with budget := b.argBudget }).runScan .bounded) :=
  if_neg (by simp [unitBusy_of_idle hp hs])

/-- A scan of an empty target started in IDLE matches with zero reads (R126, R127, R130). -/
theorem runScan_of_empty_idle {s : State} (hp : s.blk.phase = .idle) (ht : s.blk.tlen = 0) (m : ScanMode) :
    s.runScan m = { s with
      blk := { s.blk with cur := 0, sres := .matched, smode := .idle, irqPend := s.blk.irqPend ||| 0x01 } } := by
  rw [runScan_of_empty ht, scanEnd_of_no_wait (by simp [hp, Phase.scanWait])]
  rfl

/-- Settles O22: the budget is loaded before the scan starts, whether or not the target is empty. -/
theorem scnRunbStartsABoundedScan : Obligations.ScnRunbStartsABoundedScan := by
  refine fun s => ⟨fun hp hs ht => ?_, fun hp hs ht => ?_, exec_scnRunb_of_busy⟩
  · rw [exec_scnRunb_of_idle hp hs, runScan_of_target (by exact ht)]
    rfl
  · rw [exec_scnRunb_of_idle hp hs, runScan_of_empty_idle (by exact hp) (by exact ht)]
    rfl

end Sys2Proof.Machine

namespace Sys2Proof.Machine

/-! ## The CRC unit (R100 to R107) -/

theorem repeat_eq_iterate {α : Type} (f : α → α) (n : Nat) (x : α) : Nat.repeat f n x = f^[n] x := by
  induction n with
  | zero => rfl
  | succ n ih => rw [Function.iterate_succ_apply', ← ih, Nat.repeat]

theorem crcUpd_eq_iterate (c : Half) (b : Byte) : crcUpd c b = crcShift^[8] (c ^^^ b.setWidth 16) :=
  repeat_eq_iterate ..

/-- An entry of the table of R107. -/
theorem crcUpd_zero (b : Byte) : crcUpd 0 b = crcShift^[8] (b.setWidth 16) :=
  (crcUpd_eq_iterate 0 b).trans (congrArg _ BitVec.zero_xor)

theorem crcUpdLeft_eq_iterate (c : Half) (b : Byte) :
    crcUpdLeft c b = crcShiftLeft^[8] (c ^^^ (reflect b).setWidth 16 <<< 8) :=
  repeat_eq_iterate ..

/-! ### The table form -/

/-- While the bits that leave the register are 0, the polynomial is not fed back. -/
theorem crcShift_iterate_of_low_zero {c : Half} {n : Nat} (h : ∀ k < n, c.getLsbD k = false) :
    crcShift^[n] c = c >>> n := by
  induction n with
  | zero => rfl
  | succ n ih =>
    have hbit : (c >>> n).getLsbD 0 = false := by simpa using h n n.lt_succ_self
    rw [Function.iterate_succ_apply', ih fun k hk => h k (hk.trans n.lt_succ_self), crcShift, hbit,
      BitVec.shiftRight_add]
    rfl

theorem crcShift_iterate_xor (n : Nat) (a b : Half) : crcShift^[n] (a ^^^ b) = crcShift^[n] a ^^^ crcShift^[n] b :=
  Function.Semiconj₂.iterate (op := (· ^^^ ·)) crcShift_xor n a b

/-- A register is its high byte in place, joined with its low byte. -/
theorem high_xor_low (v : Half) : (v >>> 8 <<< 8) ^^^ (v.setWidth 8).setWidth 16 = v := by
  ext i hi
  by_cases h : i < 8
  · simp [h, BitVec.getLsbD_eq_getElem hi]
  · simp [h, hi, Nat.add_sub_cancel' (Nat.le_of_not_lt h)]

/-- The feedback of eight turns depends on the low byte alone. -/
theorem crcShift_iterate_eight (v : Half) :
    crcShift^[8] v = (v >>> 8) ^^^ crcShift^[8] ((v.setWidth 8).setWidth 16) := by
  have hhigh : crcShift^[8] (v >>> 8 <<< 8) = v >>> 8 := by
    rw [crcShift_iterate_of_low_zero fun k hk => by simp [hk]]
    ext i hi
    simpa using BitVec.lt_of_getLsbD
  conv_lhs => rw [← high_xor_low v]
  rw [crcShift_iterate_xor, hhigh]

theorem setWidth_and_mask (v : Half) : (v &&& 0xFF).setWidth 8 = v.setWidth 8 := by
  rw [BitVec.setWidth_and]
  exact BitVec.and_allOnes

theorem xor_byte_shift (c : Half) (b : Byte) : (c ^^^ b.setWidth 16) >>> 8 = c >>> 8 := by
  ext i hi
  simp

/-- Settles O13: the high byte of the register is shifted out whole, and the table holds the feedback of the low byte. -/
theorem crcTableFormAgrees : Obligations.CrcTableFormAgrees := fun c b => by
  rw [crcUpd_eq_iterate, crcShift_iterate_eight, xor_byte_shift, crcUpd_zero, setWidth_and_mask]

/-! ### The parameters of R100 -/

theorem reflect_eq_reverse {w : Nat} (v : BitVec w) : reflect v = v.reverse := by
  ext i hi
  rw [← BitVec.getLsbD_eq_getElem hi, ← BitVec.getLsbD_eq_getElem hi, BitVec.getLsbD_reverse, reflect,
    BitVec.getLsbD_ofFnLE, dif_pos hi]

theorem reflect_reflect {w : Nat} (v : BitVec w) : reflect (reflect v) = v := by
  simp [reflect_eq_reverse]

theorem getLsbD_reflect {w : Nat} (v : BitVec w) (i : Nat) : (reflect v).getLsbD i = v.getMsbD i := by
  rw [reflect_eq_reverse, BitVec.getLsbD_reverse]

theorem reflect_xor {w : Nat} (u v : BitVec w) : reflect (u ^^^ v) = reflect u ^^^ reflect v :=
  BitVec.eq_of_getLsbD_eq fun i _ => by simp [getLsbD_reflect]

theorem reflect_shiftRight {w : Nat} (v : BitVec w) (n : Nat) : reflect (v >>> n) = reflect v <<< n :=
  BitVec.eq_of_getLsbD_eq fun i hi => by
    simp only [getLsbD_reflect, BitVec.getLsbD_shiftLeft, BitVec.getMsbD_ushiftRight, hi]
    simp

theorem reflect_byte_setWidth (b : Byte) : reflect (b.setWidth 16) = (reflect b).setWidth 16 <<< 8 :=
  BitVec.eq_of_getLsbD_eq fun i hi => by
    simp only [getLsbD_reflect, BitVec.getMsbD_setWidth, BitVec.getLsbD_shiftLeft, BitVec.getLsbD_setWidth]
    have hindex : i + 8 - 16 = i - 8 := by omega
    have hlow : (!decide (i < 8)) = decide (16 - 8 ≤ i) := by simp [← decide_not]
    simp [hindex, hlow, hi, Nat.lt_of_le_of_lt (Nat.sub_le i 8) hi]

/-- The reflection of 0x8408 is the polynomial 0x1021. -/
theorem reflect_crcShift (c : Half) : reflect (crcShift c) = crcShiftLeft (reflect c) := by
  have hbit : (reflect c).getMsbD 0 = c.getLsbD 0 := by
    rw [← getLsbD_reflect, reflect_reflect]
  have hpoly : reflect (0x8408 : Half) = 0x1021 := by decide
  rw [crcShift, crcShiftLeft, hbit, apply_ite reflect, reflect_xor, reflect_shiftRight, hpoly]

theorem reflect_crcUpd (c : Half) (b : Byte) : reflect (crcUpd c b) = crcUpdLeft (reflect c) b := by
  rw [crcUpd_eq_iterate, crcUpdLeft_eq_iterate, ← reflect_byte_setWidth, ← reflect_xor]
  exact Function.Semiconj.iterate_right reflect_crcShift 8 _

theorem reflect_crcRun (c : Half) (s : List Byte) : reflect (crcRun c s) = s.foldl crcUpdLeft (reflect c) :=
  (List.foldl_hom reflect fun d b => (reflect_crcUpd d b).symm).symm

/-- Settles O12: the left-shifting register holds the reflection of the right-shifting one throughout. -/
theorem checksumAgreesWithItsParameters : Obligations.ChecksumAgreesWithItsParameters := fun s => by
  have hinit : reflect crcInitial = 0xFFFF := by decide
  rw [checksumByParameters, ← hinit, ← reflect_crcRun, reflect_reflect]
  rfl

/-! ### The commands -/

/-- A format-N opcode has one legal word: any other bit is reserved (R81, R85). -/
theorem decode_formatN_of_ne {w : Word} (h : opField w ∈ formatNOpcodes) (hw : w ≠ commandWord (opField w) 0) :
    decode w = .error .reservedBits := by
  by_cases hrsv : rsvField w = 0
  · have himm : immField w ≠ 0 := fun h0 => hw (by rw [← h0, commandWord_of_fields hrsv])
    rw [decode_of_rsv_eq hrsv, decodeFields_of_reserved_imm h himm]
  · exact decode_of_rsv_ne hrsv

theorem exec_crcInit (s : State) : exec .crcInit s = .next { s with blk.crcReg := crcInitial } := rfl

theorem exec_crcByte (x : Byte) (s : State) :
    exec (.crcByte x) s = .next { s with blk.crcReg := crcUpd s.blk.crcReg x } := rfl

theorem regRead_crcOut (b : Block) : b.regRead 0x20 = (crcFinal b.crcReg).setWidth 32 := rfl

theorem crcFinal_crcInitial : crcFinal crcInitial = 0 := BitVec.xor_self

/-- Settles O9: the register is set in every state, and the format has no other legal word. -/
theorem crcInitWritesInitialValue : Obligations.CrcInitWritesInitialValue := by
  refine ⟨exec_crcInit, fun s t h => ?_, by decide, fun w s hop hw => ?_⟩
  · rw [exec_crcInit] at h
    cases h
    exact ⟨rfl, by rw [regRead_crcOut, crcFinal_crcInitial]; rfl, rfl⟩
  · have hne : w ≠ commandWord (opField w) 0 := by rw [hop]; exact hw
    exact command_of_error (decode_formatN_of_ne (by rw [hop]; decide) hne) s

/-- Settles O10: every immediate is a byte to feed, so only RSV can refuse a word. -/
theorem crcByteFeedsOneByte : Obligations.CrcByteFeedsOneByte :=
  ⟨exec_crcByte, decode_commandWord 0x11, fun _ s _ hr => command_of_error (decode_of_rsv_ne hr) s, by decide⟩

/-- CRC.BYTE commands run CRC_REG over their bytes and leave every other element alone. -/
theorem execAll_crcBytes (bytes : List Byte) (s : State) :
    execAll (bytes.map .crcByte) s = .next { s with blk.crcReg := crcRun s.blk.crcReg bytes } := by
  induction bytes generalizing s with
  | nil => rfl
  | cons x bytes ih => exact ih _

/-- The check value of "123456789" (R106). -/
theorem checksum_checkValue : checksum [0x31, 0x32, 0x33, 0x34, 0x35, 0x36, 0x37, 0x38, 0x39] = 0x906E := by
  decide +kernel

/-- Settles O11: CRC_REG holds the run from 0xFFFF, whose complement CRC_OUT reads. -/
theorem crcCommandsComputeTheChecksum : Obligations.CrcCommandsComputeTheChecksum := by
  refine ⟨fun s bytes => ⟨_, execAll_crcBytes bytes _, ?_, ?_⟩, checksum_checkValue⟩
  · rw [checksum, crcFinal_crcFinal]
    rfl
  · rfl

end Sys2Proof.Machine

namespace Sys2Proof.Machine

/-! ## The digits of a decimal string (R120) -/

theorem isDigit_digitByte {d : Nat} (h : d < 10) : isDigit (digitByte d) = true := by
  simp only [isDigit, digitByte, BitVec.toNat_ofNat, decide_eq_true_eq]
  omega

theorem digitByte_ne_zeroDigit {d : Nat} (h : d < 10) (hd : d ≠ 0) : digitByte d ≠ 0x30 := fun e =>
  hd (by rw [← digitByte_value h, e]; rfl)

theorem isDigit_of_mem_decDigits {fuel n : Nat} {d : Byte} (h : d ∈ decDigits fuel n) : isDigit d = true := by
  induction fuel generalizing n with
  | zero => cases h
  | succ fuel ih =>
    by_cases hn : n = 0
    · simp [decDigits, hn] at h
    · rw [decDigits, if_neg hn, List.mem_append, List.mem_singleton] at h
      obtain h | rfl := h
      · exact ih h
      · exact isDigit_digitByte (Nat.mod_lt n (by decide))

theorem isDigit_of_mem_dec {n : DWord} {d : Byte} (h : d ∈ dec n) : isDigit d = true := by
  unfold dec at h
  split at h
  · obtain rfl := List.mem_singleton.1 h
    rfl
  · exact isDigit_of_mem_decDigits h

/-- The last digit is the leading one when nothing is left to divide, and it is then `n` itself. -/
theorem decDigits_head?_ne_zeroDigit {fuel n : Nat} (h : n < 10 ^ fuel) : (decDigits fuel n).head? ≠ some 0x30 := by
  induction fuel generalizing n with
  | zero => simp [decDigits]
  | succ fuel ih =>
    have hq : n / 10 < 10 ^ fuel := by rw [Nat.pow_succ] at h; omega
    by_cases hn : n = 0
    · simp [decDigits, hn]
    rw [decDigits, if_neg hn]
    by_cases hd : n / 10 = 0
    · have hnil : decDigits fuel 0 = [] := by cases fuel <;> rfl
      rw [hd, hnil, List.nil_append, List.head?_cons, ne_eq, Option.some.injEq]
      exact digitByte_ne_zeroDigit (Nat.mod_lt n (by decide)) (by omega)
    · have hfuel : fuel ≠ 0 := by rintro rfl; omega
      rw [List.head?_append_of_ne_nil _ (decDigits_ne_nil hfuel hd)]
      exact ih hq

theorem dec_head?_ne_zeroDigit {n : DWord} (h : n ≠ 0) : (dec n).head? ≠ some 0x30 := by
  rw [dec, if_neg h]
  exact decDigits_head?_ne_zeroDigit (Nat.lt_trans n.isLt (by decide))

/-- Settles O15: the parts of `dec`'s specification, one lemma each. -/
theorem decWritesTheNumber : Obligations.DecWritesTheNumber := fun n =>
  ⟨dec_length_pos n, dec_length_le n, fun _ => isDigit_of_mem_dec, dec_head?_ne_zeroDigit, rfl, decimalValue_dec n⟩

/-! ## Token kinds as operands (R82) -/

theorem TokKind.ofByte?_of_mem {k : Byte} {kind : TokKind}
    (h : (k, kind) ∈ [(0, TokKind.rdy), (1, .ack), (2, .ok)]) : TokKind.ofByte? k = some kind := by
  simp only [List.mem_cons, Prod.mk.injEq, List.not_mem_nil, or_false] at h
  obtain ⟨rfl, rfl⟩ | ⟨rfl, rfl⟩ | ⟨rfl, rfl⟩ := h <;> rfl

theorem toNat_le_two_of_ofByte? {k : Byte} {kind : TokKind} (h : TokKind.ofByte? k = some kind) : k.toNat ≤ 2 := by
  by_contra hk
  rw [TokKind.ofByte?_of_gt (Nat.not_le.1 hk)] at h
  cases h

/-- A word with a kind above 2 raises BAD_KIND (R82, R85). -/
theorem command_of_bad_kind {op k : Byte} (hop : op ∈ kindOpcodes) (h : 2 < k.toNat) (s : State) :
    s.command (commandWord op k) = .next (s.cmdError .badKind) :=
  command_of_error ((decode_commandWord op k).trans (decodeFields_of_bad_kind hop h)) s

/-! ## TOK.EMIT -/

theorem exec_tokEmit_of_idle {k : Byte} {kind : TokKind} {s : State} (hk : TokKind.ofByte? k = some kind)
    (hp : s.blk.phase = .idle) : exec (.tokEmit k) s = .next (s.emitCounted (tok kind s.blk.arg)) := by
  simp only [exec, execTokEmit, hk, if_pos hp, Block.argNumber]

theorem exec_tokEmit_of_role {k : Byte} {kind : TokKind} {s : State} (hk : TokKind.ofByte? k = some kind)
    (hp : s.blk.phase ≠ .idle) : exec (.tokEmit k) s = .next (s.cmdError .busy) := by
  simp only [exec, execTokEmit, hk, if_neg hp, State.raise]

/-- Settles O17: a failed transaction of `emitCounted` counts in TXERRS, and its other effect is on the channel. -/
theorem tokEmitSendsTheToken : Obligations.TokEmitSendsTheToken := by
  refine ⟨fun k kind s hmem => ?_, fun k s => (command_of_bad_kind (by decide) · s),
    fun n => ⟨rfl, fun _ => satInc32_toNat n⟩⟩
  have hk := TokKind.ofByte?_of_mem hmem
  have hwf : (Instr.tokEmit k).wf = true := decide_eq_true (toNat_le_two_of_ofByte? hk)
  refine ⟨decodeOfEncodeIsIdentity (.tokEmit k) hwf, fun hp => ?_, exec_tokEmit_of_role hk⟩
  rw [exec_tokEmit_of_idle hk hp, emitCounted_errCount]

/-! ## The scan target's commands (R123 to R126) -/

/-! The scanner commands check for BUSY before all else that is their own (R240, R242). -/

theorem busyCheck_of_busy {s : State} (h : s.blk.phase ≠ .idle ∨ s.blk.smode ≠ .idle)
    (o : Host.Outcome State Fault Refusal) :
    (if s.blk.unitBusy then s.raise .busy else o) = .next (s.cmdError .busy) := if_pos ((unitBusy_iff _).2 h)

theorem busyCheck_of_idle {s : State} (hp : s.blk.phase = .idle) (hs : s.blk.smode = .idle)
    (o : Host.Outcome State Fault Refusal) : (if s.blk.unitBusy then s.raise .busy else o) = o :=
  if_neg (by simp [unitBusy_of_idle hp hs])

theorem exec_scnTok_of_kind {k : Byte} {kind : TokKind} (hk : TokKind.ofByte? k = some kind) (s : State) :
    exec (.scnTok k) s = if s.blk.unitBusy then s.raise .busy
      else .next (s.mapBlk fun b => b.loadTarget (tok kind b.arg)) := by
  simp only [exec, execScnTok, hk, Block.argNumber]

/-- Settles O18: the load writes the token over the start of the buffer. -/
theorem scnTokLoadsTheToken : Obligations.ScnTokLoadsTheToken := by
  refine ⟨fun k kind s hmem => ?_, fun k s => (command_of_bad_kind (by decide) · s)⟩
  have hk := TokKind.ofByte?_of_mem hmem
  have hwf : (Instr.scnTok k).wf = true := decide_eq_true (toNat_le_two_of_ofByte? hk)
  rw [exec_scnTok_of_kind hk]
  refine ⟨decodeOfEncodeIsIdentity (.scnTok k) hwf,
    fun hp hs => ⟨_, ?_, writeTarget_tok_toList kind s.blk.arg s.blk.tgt⟩, fun hb => busyCheck_of_busy hb _⟩
  rw [busyCheck_of_idle hp hs]
  rfl

/-- SCAN of an empty target whose cursor is at its start (R55). -/
theorem regRead_scan_of_empty {b : Block} (hc : b.cur = 0) (hl : b.tlen = 0) : b.regRead 0x24 = 0 := by
  have hread : b.regRead 0x24 = b.scanReg := rfl
  rw [hread, Block.scanReg, hc, hl]
  decide

/-- Settles O19: with length and cursor 0 both fields of SCAN are 0. -/
theorem scnClrEmptiesTheTarget : Obligations.ScnClrEmptiesTheTarget := by
  exact ⟨fun s hp hs => ⟨_, busyCheck_of_idle hp hs _, rfl, regRead_scan_of_empty rfl rfl⟩,
    fun s hb => busyCheck_of_busy hb _, by decide⟩

theorem exec_scnPush (x : Byte) (s : State) :
    exec (.scnPush x) s = if s.blk.unitBusy then s.raise .busy
      else if s.blk.tlen = BitVec.ofNat 5 tokenMax then s.raise .targetFull
      else .next (s.mapBlk (Block.pushTarget x)) := rfl

theorem toNat_succ_of_lt_tokenMax {l : BitVec 5} (h : l.toNat < tokenMax) : (l + 1).toNat = l.toNat + 1 := by
  simp only [tokenMax] at h
  bv_omega

/-- A push appends to the valid bytes of the target (R125). -/
theorem target_pushTarget {b : Block} (h : b.tlen.toNat < tokenMax) (x : Byte) :
    (b.pushTarget x).target = b.target ++ [x] := by
  have hlen : b.tlen.toNat < (b.tgt.toList.set b.tlen.toNat x).length := by simpa using h
  rw [Block.target, Block.pushTarget_tgt, Block.pushTarget_tlen, toNat_succ_of_lt_tokenMax h,
    Vector.toList_setIfInBounds, List.take_succ_eq_append_getElem hlen, List.getElem_set_self,
    List.take_set_of_le (Nat.le_refl _), Block.target]

/-- Settles O20: BUSY is checked before TARGET_FULL. -/
theorem scnPushAppendsOneByte : Obligations.ScnPushAppendsOneByte := by
  intro x s
  rw [exec_scnPush]
  refine ⟨decode_commandWord 0x23 x,
    fun hp hs hl => ⟨_, ?_, rfl, target_pushTarget hl x, toNat_succ_of_lt_tokenMax hl⟩, fun hp hs hl => ?_,
    fun hb => busyCheck_of_busy hb _⟩
  · have hfull : s.blk.tlen ≠ BitVec.ofNat 5 tokenMax := fun e => absurd hl (by rw [e]; decide)
    rw [busyCheck_of_idle hp hs, if_neg hfull]
    rfl
  · have hfull : s.blk.tlen = BitVec.ofNat 5 tokenMax := BitVec.eq_of_toNat_eq hl
    rw [busyCheck_of_idle hp hs, if_pos hfull]
    rfl

theorem exec_scnRun_of_idle {s : State} (hp : s.blk.phase = .idle) (hs : s.blk.smode = .idle) :
    exec .scnRun s = .next (s.runScan .unbounded) := busyCheck_of_idle hp hs _

/-- Settles O21: an empty target ends the scan where it starts. -/
theorem scnRunStartsAnUnboundedScan : Obligations.ScnRunStartsAnUnboundedScan := by
  refine fun s => ⟨fun hp hs ht => ?_, fun hp hs ht => ?_, fun hb => busyCheck_of_busy hb _⟩
  · rw [exec_scnRun_of_idle hp hs, runScan_of_target ht]
    rfl
  · rw [exec_scnRun_of_idle hp hs, runScan_of_empty_idle hp ht]

/-! ## One RX event of a scan (R128, R129) -/

/-- A byte of the buffer below the target's length is the target's (R30). -/
theorem target_getElem? {b : Block} {n : Nat} (h : n < b.tlen.toNat) : b.target[n]? = b.tgt.toList[n]? :=
  List.getElem?_take_of_lt h

/-- Outside the sender role, the end of a scan is the scanner's own change (R130). -/
theorem scanEnd_of_not_sender_eq {s : State} (h : s.blk.phase.role ≠ .sender) (r : ScanEnd) :
    s.scanEnd r = { s with
      blk := { s.blk with sres := r.result, smode := .idle, irqPend := s.blk.irqPend ||| 0x01 } } :=
  scanEnd_of_not_sender h r

/-- A byte other than the next of the target restarts the scan below its length (R128). -/
theorem scanByte_of_mismatch {s : State} {x : Byte} (hcur : s.blk.cur.toNat < s.blk.tlen.toNat)
    (hx : s.blk.target[s.blk.cur.toNat]? ≠ some x) : s.scanByte x = s.mapBlk fun b => { b with cur := 0 } := by
  have hnext := nextCursor_of_mismatch hx
  have hmore : (0 : BitVec 5) ≠ s.blk.tlen := fun e => by
    rw [← e] at hcur
    exact absurd hcur (Nat.not_lt_zero _)
  rw [scanByte_of_more (hnext.trans_ne hmore), State.mapBlk, hnext]
  rfl

/-- Settles O23: the byte either meets `tgt[cur]` and advances the cursor, or restarts it below the length. -/
theorem scanByteAdvancesOrRestarts : Obligations.ScanByteAdvancesOrRestarts := by
  intro s x y q rest hscript hq hs _ hcur hy u
  have hy' : s.blk.target[s.blk.cur.toNat]? = some y := (target_getElem? hcur).trans hy
  have hstep : step s = .next (u.scanByte x) := by
    rw [step_rx hscript, rxStep_scan_byte (s := { s with script := rest }) hs hq]
  have hmatch (hxy : x = y) : u.blk.nextCursor x = s.blk.cur + 1 := nextCursor_of_match (hxy ▸ hy')
  refine ⟨fun hxy hmore => ?_, fun hxy hend => ?_, fun hxy => ?_⟩
  · rw [hstep, scanByte_of_more ((hmatch hxy).trans_ne hmore), State.mapBlk, hmatch hxy]
  · have hscan : step s = .next (State.scanEnd .matched { u with blk := { s.blk with cur := s.blk.tlen } }) := by
      have hnext := (hmatch hxy).trans hend
      rw [hstep, scanByte_of_end hnext, State.mapBlk, hnext]
    exact ⟨hscan, fun hr => hscan.trans (congrArg _ (scanEnd_of_not_sender_eq (by exact hr) _))⟩
  · have hx : s.blk.target[s.blk.cur.toNat]? ≠ some x := fun h => hxy (Option.some.inj (h.symm.trans hy'))
    rw [hstep, scanByte_of_mismatch (s := u) hcur hx]
    rfl

/-- A running scan sees an Error or a Quiet (R61, R129). -/
theorem rxStep_scan_unsuccessful {s : State} (h : s.blk.smode ≠ .idle) {q : List RxElem}
    (hq : s.chan.rxq = .error :: q ∨ s.chan.rxq = [] ∧ q = []) :
    s.rxStep = State.scanUnsuccessful { s with chan := { s.chan with rxq := q } } := by
  obtain hq | ⟨hq, rfl⟩ := hq
  · exact rxStep_scan_error h hq
  · rw [rxStep_scan_quiet h hq, ← hq]

/-- Settles O24: the charge applies to a bounded scan, and the comparison with QUANTUM tells whether it ends it. -/
theorem unsuccessfulReadChargesTheBudget : Obligations.UnsuccessfulReadChargesTheBudget := by
  intro s q rest hscript hq u
  have hstep (hs : s.blk.smode ≠ .idle) : step s = .next u.scanUnsuccessful := by
    rw [step_rx hscript, rxStep_scan_unsuccessful (s := { s with script := rest }) hs hq]
  have hcharge (hb : s.blk.smode = .bounded) : step s = .next u.chargeBudget := by
    rw [hstep (by simp [hb]), scanUnsuccessful_of_bounded (s := u) hb]
  refine ⟨fun hu => ?_, fun hb hmore => ?_, fun hb hend => ?_⟩
  · rw [hstep (by simp [hu]), scanUnsuccessful_of_unbounded (s := u) (by simp [u, hu])]
  · have hsub := budget_sub_quantum (b := s.blk.budget) (m := 0) (q := s.par.quantum) (by simpa using hmore)
    simp only [Nat.zero_mul, Nat.sub_zero, Nat.zero_add, Nat.one_mul, BitVec.ofNat_toNat, BitVec.setWidth_eq] at hsub
    rw [hcharge hb, chargeBudget_of_more (s := u) (Nat.not_le.2 hmore), State.mapBlk, ← hsub]
  · have hscan : step s = .next (State.scanEnd .timedOut { u with blk := { s.blk with budget := 0 } }) := by
      rw [hcharge hb, chargeBudget_of_exhausted (s := u) hend]
      rfl
    exact ⟨hscan, fun hr => hscan.trans (congrArg _ (scanEnd_of_not_sender_eq (by exact hr) _))⟩

/-! ## Garbage before the target, and the naive restart (R133, R134) -/

theorem arriving_append (a b : List Byte) : arriving (a ++ b) = arriving a ++ arriving b := List.map_append

theorem State.rxStep_scanned_mismatch {s : State} (hs : s.blk.smode ≠ .idle) {n : Nat} (hn : n < s.blk.tlen.toNat)
    {x : Byte} (hx : s.blk.target[n]? ≠ some x) (q : List RxElem) :
    (s.scanned n (.byte x :: q)).rxStep = s.scanned 0 q := by
  have hcur : (s.scanned n q).blk.cur.toNat = n := Nat.mod_eq_of_lt (Nat.lt_trans hn s.blk.tlen.isLt)
  rw [State.rxStep_scanned_byte hs, scanByte_of_mismatch (by rw [hcur]; exact hn) (by rw [hcur]; exact hx)]
  rfl

/-- A target with a first byte is not empty. -/
theorem tlen_pos_of_target {b : Block} {h : Byte} (hh : b.target[0]? = some h) : 0 < b.tlen.toNat := by
  refine Nat.pos_of_ne_zero fun e => ?_
  rw [Block.target, e] at hh
  cases hh

/-- Bytes other than the target's first are read and leave the cursor at 0 (R133). -/
theorem State.rxTurns_garbage {s : State} (hs : s.blk.smode ≠ .idle) {h : Byte} (hh : s.blk.target[0]? = some h)
    {g : List Byte} (hg : h ∉ g) (q : List RxElem) :
    (s.scanned 0 (arriving g ++ q)).rxTurns g.length = s.scanned 0 q := by
  induction g with
  | nil => rfl
  | cons x g ih =>
    rw [List.mem_cons, not_or] at hg
    obtain ⟨hx, hg⟩ := hg
    have hne : s.blk.target[0]? ≠ some x := fun e => hx (Option.some.inj (hh.symm.trans e))
    rw [List.length_cons, State.rxTurns, arriving_cons, List.cons_append,
      State.rxStep_scanned_mismatch hs (tlen_pos_of_target hh) hne]
    exact ih hg

/-- Settles O26: the garbage leaves the scan where it was, and O25 says what the target then does. -/
theorem garbageBeforeTheTargetIsSkipped : Obligations.GarbageBeforeTheTargetIsSkipped := by
  intro s g t x h hp hs hl ht hh hg hc hq
  have hskip {a b : List Byte} (ha : h ∉ a) (hab : g ++ t ++ x = a ++ b) :
      s.rxTurns a.length = s.scanned 0 (arriving b) := by
    have hfirst : s.blk.target[0]? = some h := by rw [ht, ← List.head?_eq_getElem?, hh]
    rw [← State.rxTurns_garbage hs hfirst ha, ← arriving_append, ← hab, ← hq, State.scanned_zero hc rfl]
  have hg' : s.rxTurns g.length = s.scanned 0 (arriving (t ++ x)) := hskip hg (List.append_assoc g t x)
  have htne : t ≠ [] := by rintro rfl; cases hh
  obtain ⟨hbefore, hafter⟩ :=
    scanReadsExactlyItsTarget (s.scanned 0 (arriving (t ++ x))) t x hp hs hl ht htne rfl rfl
  refine ⟨fun n hn => ?_, ?_⟩
  · obtain hng | hgn := Nat.lt_or_ge n g.length
    · have hsplit : g ++ t ++ x = g.take n ++ (g.drop n ++ t ++ x) := by
        rw [← List.append_assoc, ← List.append_assoc, List.take_append_drop]
      rw [← List.length_take_of_le hng.le, hskip (fun hm => hg (List.mem_of_mem_take hm)) hsplit]
      rfl
    · obtain ⟨m, rfl⟩ := Nat.exists_eq_add_of_le hgn
      rw [rxTurns_add, hg']
      exact (hbefore m (by omega)).1
  · rw [rxTurns_add, hg', hafter t.length (Nat.le_refl _)]
    exact ⟨rfl, rfl⟩

/-- Before its last byte, a scan has met the first bytes of its target, whatever follows them (R128). -/
theorem State.rxTurns_targetStart {s : State} (hs : s.blk.smode ≠ .idle) (hl : s.blk.tlen.toNat ≤ tokenMax)
    {c : Nat} (hc : c < s.blk.target.length) (q : List RxElem) :
    (s.scanned 0 (arriving (s.blk.target.take c) ++ q)).rxTurns c = s.scanned c q := by
  induction c generalizing q with
  | zero => rfl
  | succ c ih =>
    have hlt : c < s.blk.target.length := Nat.lt_of_succ_lt hc
    rw [rxTurns_succ, List.take_succ_eq_append_getElem hlt, arriving_append, List.append_assoc, ih hlt]
    exact State.rxStep_scanned hs (List.getElem?_eq_getElem hlt) (target_length hl ▸ hc)

/-- A token opens with a letter that stands nowhere else in it (R121). -/
theorem TokKind.opening_first (k : TokKind) :
    ∃ h rest, k.opening = h :: rest ∧ h ∉ rest ∧ h ∉ [0x29, 0x0A] ∧ isDigit h = false := by
  cases k <;> exact ⟨_, _, rfl, by decide, by decide, rfl⟩

theorem tok_first_unique (k : TokKind) (n : DWord) : ∃ h tl, tok k n = h :: tl ∧ h ∉ tl := by
  obtain ⟨h, rest, hopen, hrest, hclose, hdigit⟩ := k.opening_first
  have hdec : h ∉ dec n := fun hm => by
    rw [isDigit_of_mem_dec hm] at hdigit
    cases hdigit
  refine ⟨h, rest ++ dec n ++ [0x29, 0x0A], by rw [tok, hopen]; rfl, ?_⟩
  rw [List.mem_append, List.mem_append, not_or, not_or]
  exact ⟨⟨hrest, hdec⟩, hclose⟩

/-- Settles O27: the token's first byte meets the wrong place of the target, and the rest of it is garbage. -/
theorem naiveRestartMissesAnOverlap : Obligations.NaiveRestartMissesAnOverlap := by
  intro s k n c hp hs hl ht hc hpos hlt hq
  obtain ⟨h, tl, htok, htl⟩ := tok_first_unique k n
  have hh : s.blk.target[0]? = some h := by rw [ht, htok]; rfl
  have hwrong : s.blk.target[c]? ≠ some h := fun e => by
    obtain ⟨m, rfl⟩ := Nat.exists_eq_succ_of_ne_zero hpos.ne'
    rw [ht, htok, List.getElem?_cons_succ] at e
    exact htl (List.mem_of_getElem? e)
  have hstart : s.rxTurns c = s.scanned c (arriving (tok k n)) := by
    rw [← State.rxTurns_targetStart hs hl (ht ▸ hlt), ht, ← arriving_append, ← hq, State.scanned_zero hc rfl]
  have hcl : c < s.blk.tlen.toNat := by rw [← target_length hl, ht]; exact hlt
  calc s.rxTurns (c + (tok k n).length)
      = (s.scanned c (.byte h :: arriving tl)).rxTurns (tl.length + 1) := by
        rw [rxTurns_add, hstart, htok]
        rfl
    _ = (s.scanned 0 (arriving tl)).rxTurns tl.length := by
        rw [State.rxTurns, State.rxStep_scanned_mismatch hs hcl hwrong]
    _ = s.scanned 0 [] := by
        simpa only [List.append_nil] using State.rxTurns_garbage hs hh htl []
    _ = { s with chan := { s.chan with rxq := [] } } :=
        State.scanned_zero (s := { s with chan := { s.chan with rxq := [] } }) hc rfl

/-! ## TX.BYTE (R172) -/

theorem exec_txByte_of_idle {s : State} (h : s.blk.phase = .idle) (x : Byte) :
    exec (.txByte x) s = .next (s.emitCounted [x]) := if_pos h

theorem exec_txByte_of_sendChunk {s : State} (h : s.blk.phase = .sSendChunk) (x : Byte) :
    exec (.txByte x) s = .next (s.sendPayload x) := by
  simp only [exec, execTxByte, h, if_true, reduceCtorEq, if_false]

theorem exec_txByte_of_other {s : State} (hi : s.blk.phase ≠ .idle) (hc : s.blk.phase ≠ .sSendChunk) (x : Byte) :
    exec (.txByte x) s = .next (s.cmdError .wrongPhase) := by
  simp only [exec, execTxByte, if_neg hi, if_neg hc, State.raise]

/-- Settles O32: the draw tells whether the payload byte is sent, and OFF whether it is the last of its chunk. -/
theorem txByteSendsOneByte : Obligations.TxByteSendsOneByte := by
  refine fun x s => ⟨fun hp => ?_, fun hp hd hmore => ?_, fun hp hd hlast => ?_, fun k hp hd => ?_,
    fun hi hc => exec_txByte_of_other hi hc x⟩
  · rw [exec_txByte_of_idle hp, emitCounted_errCount]
  · rw [exec_txByte_of_sendChunk hp, sendPayload_of_ok hd, State.mapBlk,
      payloadSent_of_more (b := (s.emit [x]).blk) hmore]
    rfl
  · refine ⟨_, ?_, writeTarget_tok_toList .ack s.blk.idx s.blk.tgt⟩
    rw [exec_txByte_of_sendChunk hp, sendPayload_of_ok hd, State.mapBlk,
      payloadSent_of_last (b := (s.emit [x]).blk) hlast]
    rfl
  · rw [exec_txByte_of_sendChunk hp, sendPayload_of_err hd]
    rfl

end Sys2Proof.Machine

namespace Sys2Proof.Machine

/-! ## ARB.SEND (R160) -/

/-- The bytes of `RDY(256)`, its linefeed last (R121, R160). -/
theorem tok_rdy_chunkSize :
    tok .rdy (BitVec.ofNat 64 chunkSize) = [0x52, 0x44, 0x59, 0x28, 0x32, 0x35, 0x36, 0x29, 0x0A] := by decide

theorem exec_arbSend_of_idle {s : State} (hp : s.blk.phase = .idle) (hs : s.blk.smode = .idle) :
    exec .arbSend s = .next (s.mapBlk Block.beginSend) := busyCheck_of_idle hp hs _

theorem beginSend_tgt_toList (b : Block) :
    b.beginSend.tgt.toList =
      [0x52, 0x44, 0x59, 0x28, 0x32, 0x35, 0x36, 0x29, 0x0A] ++ b.tgt.toList.drop 9 := by
  rw [Block.beginSend_tgt, writeTarget_tok_toList, tok_rdy_chunkSize]
  rfl

theorem beginSend_tlen_eq (b : Block) : b.beginSend.tlen = 9 := by
  rw [Block.beginSend_tlen, tok_rdy_chunkSize]
  rfl

/-- Settles O29: the role starts with the transfer cleared and its first target, nine bytes, over the start of the
buffer. -/
theorem arbSendStartsTheSender : Obligations.ArbSendStartsTheSender := by
  refine fun s => ⟨fun hp hs => ⟨_, ?_, beginSend_tgt_toList s.blk⟩, fun hb => busyCheck_of_busy hb _, by decide⟩
  rw [exec_arbSend_of_idle hp hs, ← beginSend_tlen_eq s.blk]
  rfl

/-! ## The chunks of the image (R163) -/

theorem chunkEnd_eq_start_add_len {l i : DWord} (h : i < nchunks l) :
    (chunkEnd l i).toNat = (chunkStart i).toNat + (chunkLen l i).toNat := by
  have hle := BitVec.le_of_lt (chunkStart_lt_chunkEnd h)
  rw [chunkLen, BitVec.toNat_sub_of_le hle, Nat.add_sub_cancel' hle]

theorem chunkLen_pos {l i : DWord} (h : i < nchunks l) : 1 ≤ (chunkLen l i).toNat := by
  have hlt : (chunkStart i).toNat < (chunkEnd l i).toNat := chunkStart_lt_chunkEnd h
  have hend := chunkEnd_eq_start_add_len h
  omega

theorem chunkLen_le_chunkSize {l i : DWord} (h : i < nchunks l) : (chunkLen l i).toNat ≤ 256 := by
  have hend := chunkEnd_eq_start_add_len h
  rw [chunkEnd_toNat h, chunkStart_toNat h] at hend
  omega

/-- Settles O33: no intermediate value wraps, so each fact is the one about natural numbers. -/
theorem chunksCoverTheImage : Obligations.ChunksCoverTheImage := fun l =>
  ⟨nchunks_toNat l, fun _ hi =>
    ⟨chunkStart_toNat hi, chunkLen_pos hi, chunkLen_le_chunkSize hi, chunkEnd_eq_start_add_len hi,
      (chunkEnd_next · hi), chunkEnd_last hi⟩⟩

end Sys2Proof.Machine

namespace Sys2Proof.Machine

/-! ## A held byte leaves only by RX.TAKE (R43, R212) -/

/-- In R_RECEIVE_IMAGE every other command leaves HELD alone: most of them raise an error there (R242). -/
theorem exec_keeps_held {i : Instr} {s : State} (hp : s.blk.phase = .rReceiveImage) (hi : i ≠ .rxTake) :
    ∃ t, exec i s = .next t ∧ t.blk.held = s.blk.held := by
  have err (c : ErrCode) : ∃ t, s.raise c = .next t ∧ t.blk.held = s.blk.held := ⟨_, rfl, rfl⟩
  have hidle : s.blk.phase ≠ .idle := by simp [hp]
  cases i with
  | rxTake => exact absurd rfl hi
  | nop | crcInit | crcByte => exact ⟨_, rfl, rfl⟩
  | tokEmit k =>
    cases hk : TokKind.ofByte? k with
    | none =>
      simp only [exec, execTokEmit, hk]
      exact err _
    | some kind => exact ⟨_, exec_tokEmit_of_role hk hidle, rfl⟩
  | scnTok k =>
    cases hk : TokKind.ofByte? k with
    | none =>
      simp only [exec, execScnTok, hk]
      exact err _
    | some kind =>
      rw [exec_scnTok_of_kind hk]
      exact ⟨_, busyCheck_of_busy (.inl hidle) _, rfl⟩
  | scnClr | scnPush | scnRun | scnRunb | arbSend | arbRecv => exact ⟨_, busyCheck_of_busy (.inl hidle) _, rfl⟩
  | arbAlloc | arbNoalloc => exact ⟨_, if_neg (by simp [hp]), rfl⟩
  | arbClear => exact ⟨_, if_neg (by simp [hp, Phase.terminal]), rfl⟩
  | txByte x => exact ⟨_, exec_txByte_of_other hidle (by simp [hp]) x, rfl⟩

/-- A step that takes the held byte away is a reset or an RX.TAKE (R212, R270). -/
theorem step_releases {s t : State} (hi : s.blk.Inv) (hp : s.blk.phase = .rReceiveImage) (hh : s.blk.held = true)
    (h : step s = .next t) (ht : t.blk.held = false) :
    s.script.head? = some .reset ∨ s.script.head? = some (pushInstr .rxTake) := by
  have kept (e : t.blk.held = s.blk.held) :
      s.script.head? = some .reset ∨ s.script.head? = some (pushInstr .rxTake) := by
    rw [e, hh] at ht
    cases ht
  cases step_cases h with
  | still _ e => exact kept (by rw [e])
  | append _ _ _ e => exact kept (by rw [e])
  | rx rest _ e =>
    have hr : s.blk.reading = false := not_reading (hi.no_scan hp) (by simp [hp]) fun _ => hh
    exact kept (by rw [e, rxStep_of_not_reading (s := { s with script := rest }) hr])
  | reset _ hs _ => exact .inl (by rw [hs]; rfl)
  | read _ _ _ _ e => exact kept (by rw [e])
  | write _ v r _ _ _ _ _ e => exact kept (by rw [e]; exact (Block.writeReg_agrees v s.blk r).held)
  | writeReserved _ _ _ _ _ _ e => exact kept (by rw [e])
  | command w rest hs e =>
    cases hd : decode w with
    | error c =>
      rw [command_of_error hd] at e
      exact kept (by rw [← Host.Outcome.next.inj e]; rfl)
    | ok i =>
      by_cases htake : i = .rxTake
      · exact .inr (by rw [hs, pushInstr, ← htake, encode_of_decode hd]; rfl)
      · obtain ⟨u, hu, hheld⟩ := exec_keeps_held (s := { s with script := rest }) hp htake
        rw [command_of_ok hd, hu] at e
        exact kept (by rw [← Host.Outcome.next.inj e, hheld])

/-! ## The controller's destination buffer -/

@[simp] theorem bufferBytes_zero (buf : Nat → Byte) : bufferBytes buf 0 = [] := rfl

theorem bufferBytes_succ (buf : Nat → Byte) (n : Nat) :
    bufferBytes buf (n + 1) = bufferBytes buf n ++ [buf n] := by
  simp [bufferBytes, List.range_succ]

/-- A store at or beyond `n` leaves the first `n` bytes of the buffer. -/
theorem bufferBytes_update {n k : Nat} (h : n ≤ k) (buf : Nat → Byte) (x : Byte) :
    bufferBytes (Function.update buf k x) n = bufferBytes buf n :=
  List.map_congr_left fun _ hj => Function.update_of_ne ((List.mem_range.1 hj).trans_le h).ne x buf

/-! ## The receiver's sums, phase by phase -/

/-- What `ReceiverSum` says in R_RECEIVE_SIZE: ACC is the register over the last OFF bytes of LEN's eight (R203). -/
structure Block.SizeSums (b : Block) : Prop where
  snap : b.snap = crcInitial
  len : b.len.toNat < 2 ^ (8 * b.off.toNat)
  acc : b.acc = crcRun crcInitial ((be8 b.len).drop (8 - b.off.toNat))

/-- What `ReceiverSum` says in R_RECEIVE_IMAGE (R211, R218). -/
structure Block.ImageSums (buf : Nat → Byte) (b : Block) : Prop where
  snap : b.snap = crcRun crcInitial (bufferBytes buf (chunkStart b.idx).toNat)
  acc : b.acc = crcRun crcInitial (bufferBytes buf b.off.toNat ++ if b.held then [b.rxdata] else [])

section
variable {buf : Nat → Byte} {b : Block}

theorem ReceiverSum.sizeSums (h : ReceiverSum buf b) (hp : b.phase = .rReceiveSize) : b.SizeSums := by
  simp only [ReceiverSum, hp] at h
  obtain ⟨hsnap, hlen, hacc⟩ := h
  exact ⟨hsnap, hlen, hacc⟩

theorem Block.SizeSums.receiverSum (h : b.SizeSums) (hp : b.phase = .rReceiveSize) : ReceiverSum buf b := by
  simp only [ReceiverSum, hp]
  exact ⟨h.snap, h.len, h.acc⟩

theorem ReceiverSum.imageSums (h : ReceiverSum buf b) (hp : b.phase = .rReceiveImage) : b.ImageSums buf := by
  simp only [ReceiverSum, hp] at h
  obtain ⟨hsnap, hacc⟩ := h
  exact ⟨hsnap, hacc⟩

theorem Block.ImageSums.receiverSum (h : b.ImageSums buf) (hp : b.phase = .rReceiveImage) : ReceiverSum buf b := by
  simp only [ReceiverSum, hp]
  exact ⟨h.snap, h.acc⟩

/-- In R_ALLOC_WAIT both registers are those of no byte (R205). -/
theorem ReceiverSum.allocWait (h : ReceiverSum buf b) (hp : b.phase = .rAllocWait) :
    b.snap = crcInitial ∧ b.acc = crcInitial := by
  simp only [ReceiverSum, hp] at h
  obtain ⟨hsnap, hacc, -⟩ := h
  exact ⟨hsnap, hacc⟩

/-- Inside a chunk the sender has no receiver's sums. -/
theorem receiverSum_of_sendChunk (hp : b.phase = .sSendChunk) : ReceiverSum buf b := by
  simp only [ReceiverSum, hp]

/-- `ReceiverSum` reads the phase and eight registers. -/
theorem ReceiverSum.congr {a : Block} (h : ReceiverSum buf a) (hphase : b.phase = a.phase) (hlen : b.len = a.len)
    (hidx : b.idx = a.idx) (hoff : b.off = a.off) (hheld : b.held = a.held) (hrxdata : b.rxdata = a.rxdata)
    (hacc : b.acc = a.acc) (hsnap : b.snap = a.snap) (hexpcrc : b.expcrc = a.expcrc) : ReceiverSum buf b := by
  unfold ReceiverSum at *
  rw [hphase, hlen, hidx, hoff, hheld, hrxdata, hacc, hsnap, hexpcrc]
  exact h

/-! ### The size field -/

/-- LEN grows by one byte at its low end (R203). -/
theorem shift_byte_lt {l : DWord} {n : Nat} (h : l.toNat < 2 ^ (8 * n)) (x : Byte) :
    (l <<< 8 ||| x.setWidth 64).toNat < 2 ^ (8 * (n + 1)) := by
  have hpow : 2 ^ (8 * (n + 1)) = 2 ^ (8 * n) * 256 := by rw [Nat.mul_succ, Nat.pow_add]
  have hone : 1 ≤ 2 ^ (8 * n) := Nat.one_le_two_pow
  have hx := x.isLt
  rw [BitVec.toNat_or]
  refine Nat.or_lt_two_pow ?_ ?_
  · rw [BitVec.toNat_shiftLeft, Nat.shiftLeft_eq]
    omega
  · rw [BitVec.toNat_setWidth]
    omega

theorem be8_length (l : DWord) : (be8 l).length = 8 := rfl

theorem Block.SizeSums.takeSizeByte (h : b.SizeSums) (ho : b.off < 8) (x : Byte) : (b.takeSizeByte x).SizeSums := by
  have hadd : (b.off + 1).toNat = b.off.toNat + 1 := by bv_omega
  have hfirst : 8 - (b.off.toNat + 1) ≤ ((be8 b.len).drop 1).length := by
    rw [List.length_drop, be8_length]
    omega
  have hdrop : 1 + (8 - (b.off.toNat + 1)) = 8 - b.off.toNat := by bv_omega
  refine ⟨h.snap, ?_, ?_⟩
  · rw [Block.takeSizeByte_len, Block.takeSizeByte_off, hadd]
    exact shift_byte_lt h.len x
  · rw [Block.takeSizeByte_acc, Block.takeSizeByte_len, Block.takeSizeByte_off, hadd, be8_shift,
      List.drop_append_of_le_length hfirst, List.drop_drop, hdrop, crcRun_snoc, h.acc]

/-- The eighth size byte: ACC is the register over all of LEN (R205). -/
theorem Block.SizeSums.acc_full (h : b.SizeSums) (ho : b.off = 8) : b.acc = crcRun crcInitial (be8 b.len) := by
  rw [h.acc, ho]
  rfl

/-! ### The image -/

theorem Block.ImageSums.acc_of_held (h : b.ImageSums buf) (hh : b.held = true) :
    b.acc = crcRun crcInitial (bufferBytes buf b.off.toNat ++ [b.rxdata]) := by
  rw [h.acc, hh]
  rfl

theorem Block.ImageSums.acc_of_not_held (h : b.ImageSums buf) (hh : b.held = false) :
    b.acc = crcRun crcInitial (bufferBytes buf b.off.toNat) := by
  rw [h.acc, hh, if_neg Bool.false_ne_true, List.append_nil]

/-- The held byte, stored at OFF, is the next byte of the buffer (R212, R284). -/
theorem Block.ImageSums.acc_stored (h : b.ImageSums buf) (hin : b.insideChunk) (hh : b.held = true)
    (hbuf : buf b.off.toNat = b.rxdata) : b.acc = crcRun crcInitial (bufferBytes buf (b.off + 1).toNat) := by
  obtain ⟨-, -, hlt⟩ := hin
  have hadd : (b.off + 1).toNat = b.off.toNat + 1 := by bv_omega
  rw [h.acc_of_held hh, hadd, bufferBytes_succ, hbuf]

/-- With no byte held the sums speak of the buffer alone. -/
theorem Block.ImageSums.of_not_held (hh : b.held = false)
    (hsnap : b.snap = crcRun crcInitial (bufferBytes buf (chunkStart b.idx).toNat))
    (hacc : b.acc = crcRun crcInitial (bufferBytes buf b.off.toNat)) : b.ImageSums buf := by
  refine ⟨hsnap, ?_⟩
  rw [hh, if_neg Bool.false_ne_true, List.append_nil, hacc]

theorem Block.ImageSums.holdByte (h : b.ImageSums buf) (hh : b.held = false) (x : Byte) :
    (b.holdByte x).ImageSums buf := by
  refine ⟨h.snap, ?_⟩
  rw [Block.holdByte_acc, h.acc_of_not_held hh, ← crcRun_snoc]
  rfl

/-- A store at OFF reaches no byte that the sums speak of (R212). -/
theorem Block.ImageSums.store (h : b.ImageSums buf) (hin : b.insideChunk) (x : Byte) :
    b.ImageSums (Function.update buf b.off.toNat x) := by
  obtain ⟨-, hstart, -⟩ := hin
  constructor
  · rw [bufferBytes_update hstart, h.snap]
  · rw [bufferBytes_update (Nat.le_refl _), ← h.acc]

/-- RX.TAKE at the end of a chunk leaves OFF at the start of the next one (R163, R212). -/
theorem Block.Inv.off_of_takeChunk (h : b.Inv) (hp : b.phase = .rReceiveImage)
    (hn : b.off + 1 = chunkEnd b.len b.idx) (hl : b.off + 1 ≠ b.len) : b.off + 1 = chunkStart (b.idx + 1) := by
  obtain ⟨hidx, -, -⟩ := h.insideChunk (.inr hp)
  have hmore : b.idx + 1 < nchunks b.len := by
    by_contra hlast
    exact hl (hn.trans (chunkEnd_last hidx hlast))
  exact hn.trans (chunkEnd_next hmore hidx)

/-! ### Every move keeps the sums -/

/-- The duty bears on the moves that take the held byte away (R284). Outside the receiver's phases the sums say
nothing. -/
theorem Block.Move.receiverSum {c : Option Instr} {a b : Block} (hm : Block.Move c a b) (hi : a.Inv)
    (h : ReceiverSum buf a)
    (hduty : a.phase = .rReceiveImage → a.held = true → b.held = false → buf a.off.toNat = a.rxdata) :
    ReceiverSum buf b := by
  have stored (hp : a.phase = .rReceiveImage) (hh : a.held = true) (hb : b.held = false) :
      a.acc = crcRun crcInitial (bufferBytes buf (a.off + 1).toNat) :=
    (h.imageSums hp).acc_stored (hi.insideChunk (.inr hp)) hh (hduty hp hh hb)
  cases hm with
  | receive => exact ⟨rfl, show 0 < 1 by decide, rfl⟩
  | sizeByte x hp _ => exact ((h.sizeSums hp).takeSizeByte (hi.sizeProgress hp).2 x).receiverSum hp
  | sizeLast x hp hn =>
    have hsums := (h.sizeSums hp).takeSizeByte (hi.sizeProgress hp).2 x
    exact ⟨rfl, rfl, congrArg crcFinal (hsums.acc_full hn)⟩
  | sizeRestart hp =>
    have hsnap := (h.sizeSums hp).snap
    exact Block.SizeSums.receiverSum ⟨hsnap, show 0 < 1 by decide, hsnap⟩ hp
  | alloc hp _ =>
    obtain ⟨hidx, hoff⟩ := hi.allocProgress hp
    obtain ⟨hsnap, hacc⟩ := h.allocWait hp
    exact Block.ImageSums.receiverSum (.of_not_held (hi.no_byte hp) (by rw [hsnap, hidx]; rfl)
      (by rw [hacc, hoff]; rfl)) rfl
  | allocEmpty hp hl =>
    obtain ⟨-, hacc⟩ := h.allocWait hp
    change crcFinal a.acc = checksum (bufferBytes buf a.len.toNat)
    rw [hacc, hl]
    rfl
  | hold x hp hh => exact ((h.imageSums hp).holdByte hh x).receiverSum hp
  | chunkRestart hp hh =>
    have hsnap := (h.imageSums hp).snap
    exact Block.ImageSums.receiverSum (.of_not_held hh hsnap hsnap) hp
  | take hp hh _ =>
    have hsnap := (h.imageSums hp).snap
    exact Block.ImageSums.receiverSum (.of_not_held rfl hsnap (stored hp hh rfl)) hp
  | takeChunk hp hh hn hl =>
    have hacc := stored hp hh rfl
    have hstart := hi.off_of_takeChunk hp hn hl
    exact Block.ImageSums.receiverSum (.of_not_held rfl (hstart ▸ hacc) hacc) hp
  | takeLast hp hh _ hl => exact congrArg crcFinal (hl ▸ stored hp hh rfl)
  | payload _ hp => exact receiverSum_of_sendChunk hp
  | send | sizeSent | sizeLost | sizeAcked | firstChunk | noChunk | payloadLast | payloadLost | nextChunk | lastChunk
  | imageOk | timeoutAbort | retransmit | noalloc | clear => exact trivial
  | stay | crcInit | crcByte | aim | scan | cursor | matchedAlone | timeoutAlone =>
    exact h.congr rfl rfl rfl rfl rfl rfl rfl rfl rfl

end

/-- Settles O43: a reset ends in IDLE, every move keeps the sums, and the only move that takes the held byte away is
RX.TAKE's, where the controller has its duty. -/
theorem receiverChecksumIsOfTheBuffer : Obligations.ReceiverChecksumIsOfTheBuffer := by
  refine ⟨fun buf s t hi h hduty hstep => ?_, fun buf b hi hh h => ?_⟩
  · by_cases hr : s.script.head? = some .reset
    · obtain ⟨rest, hs⟩ := List.head?_eq_some_iff.1 hr
      rw [← Host.Outcome.next.inj ((step_cons hs).symm.trans hstep)]
      exact trivial
    · obtain ⟨hreset, -⟩ | ⟨c, ⟨m, hm, he⟩, -⟩ := step_moves hstep
      · exact absurd hreset hr
      · have htake (hp : s.blk.phase = .rReceiveImage) (hh : s.blk.held = true) (hmh : m.held = false) :
            s.script.head? = some (pushInstr .rxTake) :=
          (step_releases hi hp hh hstep (he.held.trans hmh)).resolve_left hr
        have hsum := hm.receiverSum hi h fun hp hh hmh => hduty (htake hp hh hmh) hp hh
        exact hsum.congr he.phase he.len he.idx he.off he.held he.rxdata he.acc he.snap he.expcrc
  · have hp := hi.heldPhase hh
    exact ((h.imageSums hp).store (hi.insideChunk (.inr hp)) b.rxdata).receiverSum hp

/-! ## The receiver's transactions in closed form -/

/-- RequestImage sends one RDY, and its failure only counts (R200, R216). -/
theorem requestImage_eq (s : State) :
    s.requestImage = { s with
      chan := s.chan.send (tok .rdy (BitVec.ofNat 64 chunkSize))
      blk := { s.blk.beginReceive with txerrs := errCount s.chan.draw 0, phase := .rReceiveSize } } := by
  rw [State.requestImage, emitCounted_errCount]
  rfl

/-- ConfirmSize sends ACK(0), then the OK of the checksum (R205). -/
theorem confirmSize_eq (s : State) :
    s.confirmSize = { s with
      chan := (s.chan.send (tok .ack 0)).send (tok .ok (crcNumber (crcFinal s.blk.acc)))
      blk := { s.blk.beginConfirmSize.enterAllocWait with
        txerrs := errCount (s.chan.send (tok .ack 0)).draw (errCount s.chan.draw s.blk.txerrs) } } := by
  rw [State.confirmSize, emitCounted_errCount, emitCounted_errCount]
  rfl

/-- ConfirmImage sends the OK of ACC's checksum (R214). -/
theorem confirmImage_eq (s : State) :
    s.confirmImage = { s with
      chan := s.chan.send (tok .ok (crcNumber (crcFinal s.blk.acc)))
      blk := { s.blk.beginConfirmImage.enterHandoff with txerrs := errCount s.chan.draw s.blk.txerrs } } := by
  rw [State.confirmImage, emitCounted_errCount]
  rfl

/-! ## ARB.RECV (R200) -/

/-- Settles O36. -/
theorem arbRecvRequestsTheImage : Obligations.ArbRecvRequestsTheImage := by
  refine fun s => ⟨fun hp hs => ?_, fun hb => busyCheck_of_busy hb _⟩
  have hexec : exec .arbRecv s = .next s.requestImage := busyCheck_of_idle hp hs _
  rw [hexec, requestImage_eq, tok_rdy_chunkSize]
  rfl

/-! ## ARB.ALLOC (R207) -/

/-- Settles O39: ConfirmImage of an empty image follows in the same step. -/
theorem arbAllocOpensTheImage : Obligations.ArbAllocOpensTheImage := by
  intro s
  have hexec (hp : s.blk.phase = .rAllocWait) : exec .arbAlloc s = .next s.allocated := if_pos hp
  refine ⟨fun hp hl => ?_, fun hp hl => ?_, fun hp => if_neg hp⟩
  · rw [hexec hp, allocated_of_chunks hl]
    rfl
  · rw [hexec hp, allocated_of_empty hl, confirmImage_eq]
    rfl

/-! ## One RX event of the size field (R203, R205) -/

theorem rxStep_size_error {s : State} (hp : s.blk.phase = .rReceiveSize) (hs : s.blk.smode = .idle) {q : List RxElem}
    (hq : s.chan.rxq = .error :: q) :
    s.rxStep = State.mapBlk Block.restartSize { s with chan := { s.chan with rxq := q } } := by
  rw [rxStep_of_cons (reading_of_size hp) hq]
  exact onRxEvent_of_size (s := { s with chan := { s.chan with rxq := q } }) hs hp _

theorem rxStep_size_quiet {s : State} (hp : s.blk.phase = .rReceiveSize) (hs : s.blk.smode = .idle)
    (hq : s.chan.rxq = []) : s.rxStep = s := by
  rw [rxStep_of_nil (reading_of_size hp) hq]
  exact onRxEvent_of_size hs hp _

/-- Settles O37: OFF tells whether a byte is the eighth. -/
theorem sizeFieldIsReceivedAndConfirmed : Obligations.SizeFieldIsReceivedAndConfirmed := by
  intro s rest hscript hp hs
  rw [step_rx hscript]
  refine ⟨fun x q hq hmore => ?_, fun x q hq hlast => ?_, fun q hq => ?_, fun hq => ?_⟩
  · rw [rxStep_size_byte (s := { s with script := rest }) hp hs hq, sizeEvent_byte_of_more (by exact hmore)]
    rfl
  · rw [rxStep_size_byte (s := { s with script := rest }) hp hs hq, sizeEvent_byte_of_last (by exact hlast),
      confirmSize_eq]
    rfl
  · rw [rxStep_size_error (s := { s with script := rest }) hp hs hq]
    rfl
  · rw [rxStep_size_quiet (s := { s with script := rest }) hp hs hq]

/-! ## One RX event of the image (R211) -/

/-- A turn of the RX port on a byte or an Error of the image (R211). -/
theorem rxStep_image_of_cons {s : State} (hp : s.blk.phase = .rReceiveImage) (hs : s.blk.smode = .idle)
    (hh : s.blk.held = false) {e : RxElem} {q : List RxElem} (hq : s.chan.rxq = e :: q) :
    s.rxStep = State.imageEvent e.event { s with chan := { s.chan with rxq := q } } := by
  rw [rxStep_of_cons (reading_of_image hp hh) hq]
  exact onRxEvent_of_image (s := { s with chan := { s.chan with rxq := q } }) hs (by simp [hp]) _

theorem rxStep_image_quiet {s : State} (hp : s.blk.phase = .rReceiveImage) (hs : s.blk.smode = .idle)
    (hh : s.blk.held = false) (hq : s.chan.rxq = []) : s.rxStep = s := by
  rw [rxStep_of_nil (reading_of_image hp hh) hq]
  exact onRxEvent_of_image hs (by simp [hp]) _

/-- Settles O41: with a byte held the block is not reading. -/
theorem imageByteIsHeldForTheController : Obligations.ImageByteIsHeldForTheController := by
  intro s rest hscript hp hs
  refine ⟨fun x q hh hq => ?_, fun q hh hq => ?_, fun hh hq => ?_, fun hh => ?_⟩
  · rw [step_rx hscript, rxStep_image_of_cons (s := { s with script := rest }) hp hs hh hq]
    rfl
  · rw [step_rx hscript, rxStep_image_of_cons (s := { s with script := rest }) hp hs hh hq]
    rfl
  · rw [step_rx hscript, rxStep_image_quiet (s := { s with script := rest }) hp hs hh hq]
  · exact step_rx_of_not_reading hscript (not_reading hs (by simp [hp]) fun _ => hh)

/-! ## RX.TAKE (R212) -/

theorem exec_rxTake_of_held {s : State} (hp : s.blk.phase = .rReceiveImage) (hh : s.blk.held = true) :
    exec .rxTake s = .next s.takeByte := by
  simp only [exec, execRxTake, if_pos hp, if_pos hh]

theorem exec_rxTake_of_nothing {s : State} (hp : s.blk.phase = .rReceiveImage) (hh : s.blk.held = false) :
    exec .rxTake s = .next (s.cmdError .nothingHeld) := by
  simp only [exec, execRxTake, if_pos hp, hh, Bool.false_eq_true, if_false, State.raise]

/-- Settles O42: OFF tells whether the byte ends its chunk, and whether the chunk ends the image. -/
theorem rxTakeReleasesTheByte : Obligations.RxTakeReleasesTheByte := by
  refine fun s => ⟨fun hp hh hmore => ?_, fun hp hh hlast hl => ?_, fun hp hh hlast hl => ?_, exec_rxTake_of_nothing,
    fun hp => if_neg hp, by decide⟩
  · rw [exec_rxTake_of_held hp hh, takeByte_of_more hmore]
    rfl
  · rw [exec_rxTake_of_held hp hh, takeByte_of_filled hlast, chunkFilled_of_more (by exact hl), emitCounted_errCount]
    rfl
  · rw [exec_rxTake_of_held hp hh, takeByte_of_filled hlast, chunkFilled_of_last (by exact hl), emitCounted_errCount,
      confirmImage_eq]
    rfl

end Sys2Proof.Machine

namespace Sys2Proof.Machine

/-! ## NOP and ARB.CLEAR (R230, R231) -/

/-- Settles O8: format N has one word for each opcode, and NOP's is 0. -/
theorem nopChangesNothing : Obligations.NopChangesNothing := by
  refine ⟨fun _ => rfl, by decide, fun w s hop hw => ?_⟩
  have hne : w ≠ commandWord (opField w) 0 := by rw [hop]; exact hw
  exact command_of_error (decode_formatN_of_ne (by rw [hop]; decide) hne) s

/-- The list of R24. -/
theorem Phase.terminal_iff_mem {p : Phase} :
    p.terminal = true ↔ p ∈ [Phase.idle, .sDone, .sAborted, .rHandoff, .rHalted] := by
  cases p <;> decide

theorem exec_arbClear_of_terminal {s : State} (h : s.blk.phase.terminal = true) :
    exec .arbClear s = .next (s.mapBlk Block.cleared) := if_pos h

theorem exec_arbClear_of_not_terminal {s : State} (h : ¬ s.blk.phase.terminal = true) :
    exec .arbClear s = .next (s.cmdError .wrongPhase) := if_neg h

/-- Settles O45: the five phases listed are the terminal ones, and the scanner is not asked. -/
theorem arbClearReturnsToIdle : Obligations.ArbClearReturnsToIdle := fun _ =>
  ⟨fun h => exec_arbClear_of_terminal (Phase.terminal_iff_mem.2 h),
    fun h => exec_arbClear_of_not_terminal (mt Phase.terminal_iff_mem.1 h), by decide⟩

end Sys2Proof.Machine

namespace Sys2Proof.Machine

/-! ## ERRCODE through the operations and the RX steps (R241)

No operation but `cmdError` writes ERRCODE. -/

@[simp] theorem Block.enterImage_errcode (b : Block) : b.enterImage.errcode = b.errcode := by
  unfold Block.enterImage
  split <;> rfl

@[simp] theorem Block.chunkAcked_errcode (b : Block) : b.chunkAcked.errcode = b.errcode := by
  unfold Block.chunkAcked
  split <;> rfl

@[simp] theorem Block.onTimeout_errcode (b : Block) : b.onTimeout.errcode = b.errcode := by
  unfold Block.onTimeout
  split <;> rfl

@[simp] theorem Block.payloadSent_errcode (x : Byte) (b : Block) : (b.payloadSent x).errcode = b.errcode := by
  unfold Block.payloadSent
  dsimp only
  split <;> rfl

@[simp] theorem Block.writeReg_errcode (v : Word) (b : Block) (r : Reg) : (b.writeReg v r).errcode = b.errcode := by
  cases r <;> rfl

@[simp] theorem sendSize_errcode (s : State) : s.sendSize.blk.errcode = s.blk.errcode := by
  unfold State.sendSize
  dsimp only
  split <;> rfl

@[simp] theorem sendPayload_errcode (x : Byte) (s : State) : (s.sendPayload x).blk.errcode = s.blk.errcode := by
  unfold State.sendPayload
  split <;> simp

@[simp] theorem onMatch_errcode (s : State) : s.onMatch.blk.errcode = s.blk.errcode := by
  unfold State.onMatch
  split <;> simp

@[simp] theorem scanEnd_errcode (r : ScanEnd) (s : State) : (s.scanEnd r).blk.errcode = s.blk.errcode := by
  by_cases h : s.blk.phase.role = .sender
  · rw [scanEnd_of_sender h]
    cases r <;> simp [State.onScanEnd]
  · simp [scanEnd_of_not_sender h]

@[simp] theorem runScan_errcode (m : ScanMode) (s : State) : (s.runScan m).blk.errcode = s.blk.errcode := by
  by_cases h : s.blk.tlen = 0
  · simp [runScan_of_empty h]
  · simp [runScan_of_target h]

@[simp] theorem confirmSize_errcode (s : State) : s.confirmSize.blk.errcode = s.blk.errcode := by
  simp [State.confirmSize]

@[simp] theorem confirmImage_errcode (s : State) : s.confirmImage.blk.errcode = s.blk.errcode := by
  simp [State.confirmImage]

@[simp] theorem requestImage_errcode (s : State) : s.requestImage.blk.errcode = s.blk.errcode := by
  simp [State.requestImage]

@[simp] theorem allocated_errcode (s : State) : s.allocated.blk.errcode = s.blk.errcode := by
  by_cases h : s.blk.len = 0
  · simp [allocated_of_empty h]
  · simp [allocated_of_chunks h]

@[simp] theorem chunkFilled_errcode (s : State) : s.chunkFilled.blk.errcode = s.blk.errcode := by
  by_cases h : s.blk.off = s.blk.len
  · simp [chunkFilled_of_last h]
  · simp [chunkFilled_of_more h]

@[simp] theorem takeByte_errcode (s : State) : s.takeByte.blk.errcode = s.blk.errcode := by
  by_cases h : s.blk.off + 1 = chunkEnd s.blk.len s.blk.idx
  · simp [takeByte_of_filled h]
  · simp [takeByte_of_more h]

@[simp] theorem scanByte_errcode (x : Byte) (s : State) : (s.scanByte x).blk.errcode = s.blk.errcode := by
  by_cases h : s.blk.nextCursor x = s.blk.tlen
  · simp [scanByte_of_end h]
  · simp [scanByte_of_more h]

@[simp] theorem chargeBudget_errcode (s : State) : s.chargeBudget.blk.errcode = s.blk.errcode := by
  by_cases h : s.blk.budget.toNat ≤ s.par.quantum
  · simp [chargeBudget_of_exhausted h]
  · simp [chargeBudget_of_more h]

@[simp] theorem scanUnsuccessful_errcode (s : State) : s.scanUnsuccessful.blk.errcode = s.blk.errcode := by
  by_cases h : s.blk.smode = .bounded
  · simp [scanUnsuccessful_of_bounded h]
  · simp [scanUnsuccessful_of_unbounded h]

@[simp] theorem scanEvent_errcode (e : RxEvent) (s : State) : (s.scanEvent e).blk.errcode = s.blk.errcode := by
  cases e <;> simp [State.scanEvent]

@[simp] theorem sizeEvent_errcode (e : RxEvent) (s : State) : (s.sizeEvent e).blk.errcode = s.blk.errcode := by
  cases e with
  | byte x =>
    by_cases h : s.blk.off + 1 = 8
    · simp [sizeEvent_byte_of_last h]
    · simp [sizeEvent_byte_of_more h]
  | error => rfl
  | quiet => rfl

@[simp] theorem imageEvent_errcode (e : RxEvent) (s : State) : (s.imageEvent e).blk.errcode = s.blk.errcode := by
  cases e <;> rfl

/-- An RX step raises no command error. -/
@[simp] theorem rxStep_errcode (s : State) : s.rxStep.blk.errcode = s.blk.errcode := by
  cases rxStep_cases s with
  | notReading _ e => rw [e]
  | scan _ e | size _ _ e | image _ _ _ e => simp [e]

/-! ## The legality checks of a command (R242) -/

/-- The outcome of a command in `s` by the check that fails: its error is raised, or, where none fails, the command
completes and leaves ERRCODE (R241, R242). -/
def Obeys (s : State) (o : Host.Outcome State Fault Refusal) : Option ErrCode → Prop
  | some e => o = s.raise e
  | none => ∃ t, o = .next t ∧ t.blk.errcode = s.blk.errcode

theorem Obeys.pass {s t : State} (h : t.blk.errcode = s.blk.errcode) : Obeys s (.next t) none := ⟨t, rfl, h⟩

/-- One check of the table, which the command makes first. -/
theorem Obeys.check {s : State} {o : Host.Outcome State Fault Refusal} {r : Option ErrCode} {c d : Prop} [Decidable c]
    [Decidable d] (e : ErrCode) (hcd : c ↔ d) (h : Obeys s o r) :
    Obeys s (if c then s.raise e else o) (if d then some e else r) := by
  by_cases hd : d
  · rw [if_pos hd, if_pos (hcd.2 hd)]
    rfl
  · rwa [if_neg hd, if_neg (mt hcd.1 hd)]

/-- A command that asks for what it needs makes the check that it is not so. -/
theorem Obeys.need {s : State} {o : Host.Outcome State Fault Refusal} {r : Option ErrCode} {c d : Prop} [Decidable c]
    [Decidable d] (e : ErrCode) (hcd : ¬ c ↔ d) (h : Obeys s o r) :
    Obeys s (if c then o else s.raise e) (if d then some e else r) := by
  rw [← ite_not]
  exact h.check e hcd

/-- The check of the scanner and role commands (R240). -/
theorem Obeys.busyCheck {s t : State} (h : t.blk.errcode = s.blk.errcode) :
    Obeys s (if s.blk.unitBusy then s.raise .busy else .next t)
      (if s.blk.phase ≠ .idle ∨ s.blk.smode ≠ .idle then some .busy else none) :=
  (Obeys.pass h).check .busy (unitBusy_iff _)

theorem exec_tokEmit_of_bad_kind {k : Byte} (h : 2 < k.toNat) (s : State) : exec (.tokEmit k) s = s.raise .badKind := by
  simp only [exec, execTokEmit, TokKind.ofByte?_of_gt h]

theorem exec_tokEmit_of_kind {k : Byte} {kind : TokKind} (hk : TokKind.ofByte? k = some kind) (s : State) :
    exec (.tokEmit k) s =
      if s.blk.phase = .idle then .next (s.emitCounted (tok kind s.blk.arg)) else s.raise .busy := by
  simp only [exec, execTokEmit, hk, Block.argNumber]

theorem exec_scnTok_of_bad_kind {k : Byte} (h : 2 < k.toNat) (s : State) : exec (.scnTok k) s = s.raise .badKind := by
  simp only [exec, execScnTok, TokKind.ofByte?_of_gt h]

/-- Every command makes the checks of its row of R242 in their order. -/
theorem exec_obeys (i : Instr) (s : State) : Obeys s (exec i s) (legalityError i s.blk) := by
  cases i with
  | nop | crcInit | crcByte => exact .pass rfl
  | tokEmit k =>
    by_cases hk : 2 < k.toNat
    · rw [exec_tokEmit_of_bad_kind hk, legalityError, if_pos hk]
      rfl
    · obtain ⟨kind, hkind⟩ := TokKind.ofByte?_of_le (Nat.not_lt.1 hk)
      rw [exec_tokEmit_of_kind hkind, legalityError, if_neg hk]
      exact (Obeys.pass (emitCounted_blk_errcode _ s)).need .busy .rfl
  | scnTok k =>
    by_cases hk : 2 < k.toNat
    · rw [exec_scnTok_of_bad_kind hk, legalityError, if_pos hk]
      rfl
    · obtain ⟨kind, hkind⟩ := TokKind.ofByte?_of_le (Nat.not_lt.1 hk)
      rw [exec_scnTok_of_kind hkind, legalityError, if_neg hk]
      exact .busyCheck rfl
  | scnClr | arbSend => exact .busyCheck rfl
  | scnPush x =>
    have hfull : s.blk.tlen = BitVec.ofNat 5 tokenMax ↔ s.blk.tlen.toNat = tokenMax := BitVec.toNat_inj.symm
    have hpush : Obeys s (.next (s.mapBlk (Block.pushTarget x))) none := .pass rfl
    exact (hpush.check .targetFull hfull).check .busy (unitBusy_iff _)
  | scnRun | scnRunb => exact .busyCheck (runScan_errcode _ _)
  | arbRecv => exact .busyCheck (requestImage_errcode s)
  | arbAlloc => exact (Obeys.pass (allocated_errcode s)).need .wrongPhase .rfl
  | arbNoalloc => exact (Obeys.pass rfl).need .wrongPhase .rfl
  | rxTake =>
    exact ((Obeys.pass (takeByte_errcode s)).need .nothingHeld (Bool.not_eq_true _).to_iff).need .wrongPhase .rfl
  | arbClear => exact (Obeys.pass rfl).need .wrongPhase (Bool.not_eq_true _).to_iff
  | txByte x =>
    by_cases hi : s.blk.phase = .idle
    · rw [exec_txByte_of_idle hi, legalityError, if_neg fun h => h.1 hi]
      exact .pass (emitCounted_blk_errcode _ s)
    by_cases hc : s.blk.phase = .sSendChunk
    · rw [exec_txByte_of_sendChunk hc, legalityError, if_neg fun h => h.2 hc]
      exact .pass (sendPayload_errcode x s)
    · rw [exec_txByte_of_other hi hc, legalityError, if_pos ⟨hi, hc⟩]
      rfl

theorem exec_of_illegal {i : Instr} {e : ErrCode} {s : State} (h : legalityError i s.blk = some e) :
    exec i s = .next (s.cmdError e) := by
  have ho := exec_obeys i s
  rwa [h] at ho

theorem exec_of_legal {i : Instr} {s : State} (h : legalityError i s.blk = none) :
    ∃ t, exec i s = .next t ∧ t.blk.errcode = s.blk.errcode := by
  have ho := exec_obeys i s
  rwa [h] at ho

/-- Settles O7: the decoder's checks are those of O3, and the command's own are those of its row. -/
theorem legalityChecksInOrder : Obligations.LegalityChecksInOrder :=
  ⟨fun w e s h => ((decoderChecksInOrder w s).1 e h).2, fun _ _ _ => exec_of_illegal, fun _ _ => exec_of_legal⟩

/-! ## Command errors (R241) -/

/-- A written command word raises one error and does nothing else, or leaves ERRCODE. -/
theorem command_errcode {w : Word} {s t : State} (h : s.command w = .next t) :
    t.blk.errcode = s.blk.errcode ∨ ∃ c, t = s.cmdError c := by
  cases hd : decode w with
  | error e =>
    rw [command_of_error hd] at h
    exact .inr ⟨_, (Host.Outcome.next.inj h).symm⟩
  | ok i =>
    rw [command_of_ok hd] at h
    cases hl : legalityError i s.blk with
    | some c =>
      rw [exec_of_illegal hl] at h
      exact .inr ⟨c, (Host.Outcome.next.inj h).symm⟩
    | none =>
      obtain ⟨u, hu, he⟩ := exec_of_legal hl
      obtain rfl := Host.Outcome.next.inj (hu.symm.trans h)
      exact .inl he

/-- Settles O6: of all the steps only a reset and a command error write ERRCODE. -/
theorem commandErrorIsPrecise : Obligations.CommandErrorIsPrecise := by
  refine ⟨fun _ _ => rfl, fun i s t hl ht => ?_, fun s t h => ?_⟩
  · obtain ⟨u, hu, he⟩ := exec_of_legal hl
    obtain rfl := Host.Outcome.next.inj (hu.symm.trans ht)
    exact he
  · cases step_cases h with
    | still _ e | append _ _ _ e | read _ _ _ _ e | writeReserved _ _ _ _ _ _ e => exact .inl (by rw [e])
    | rx rest _ e => exact .inl (by rw [e, rxStep_errcode])
    | write _ v r _ _ _ _ _ e => exact .inl (by rw [e, State.mapBlk_blk, Block.writeReg_errcode])
    | reset rest hs _ => exact .inr (.inl (by rw [hs]; rfl))
    | command w rest hs e =>
      obtain he | ⟨c, he⟩ := command_errcode e
      · exact .inl he
      · exact .inr (.inr ⟨w, rest, c, hs, he⟩)

/-! ## The interrupt registers and the line (R247, R248) -/

theorem ofOffset?_offset (r : Reg) : Reg.ofOffset? r.offset = some r := by cases r <;> rfl

/-- A write of a register other than CMD (R52, R67). -/
theorem step_writeOf {s : State} {r : Reg} {v : Word} {rest : List Stimulus} (hs : s.script = .writeOf r v :: rest)
    (hr : r.offset ≠ 0x10) : step s = .next (State.mapBlk (fun b => b.writeReg v r) { s with script := rest }) := by
  have ha : r.offset % 4 = 0 := by cases r <;> rfl
  have hw : r.offset < 0x100 := Nat.lt_of_le_of_lt r.offset_le (by decide)
  rw [step_access hs ha hw]
  refine (regWrite_eq_written hr v _).trans ?_
  rw [State.mapBlk, Block.written_of_some (ofOffset?_offset r), State.mapBlk]

/-- Every bit of IRQ_PEND and IRQ_EN is an interrupt's (R245). -/
theorem Irq.exists_bit_eq {n : Nat} (h : n < 8) : ∃ q : Irq, q.bit = n := by
  interval_cases n
  exacts [⟨.scanDone, rfl⟩, ⟨.chunkReq, rfl⟩, ⟨.allocReq, rfl⟩, ⟨.rxAvail, rfl⟩, ⟨.done, rfl⟩, ⟨.abort, rfl⟩,
    ⟨.cmdErr, rfl⟩, ⟨.restart, rfl⟩]

/-- A byte is 0 exactly when no interrupt's bit of it is set. -/
theorem eq_zero_iff_irq_bits (v : Byte) : v = 0 ↔ ∀ q : Irq, v.getLsbD q.bit = false := by
  refine ⟨fun h q => by rw [h]; exact BitVec.getLsbD_zero, fun h => BitVec.eq_of_getLsbD_eq fun n hn => ?_⟩
  obtain ⟨q, rfl⟩ := Irq.exists_bit_eq hn
  exact (h q).trans BitVec.getLsbD_zero.symm

/-- The line is high exactly when some bit is both pending and enabled (R248). -/
theorem irqLine_iff (b : Block) : b.irqLine = true ↔ ∃ q : Irq, b.pending q = true ∧ b.irqEn.getLsbD q.bit = true := by
  rw [Block.irqLine, bne_iff_ne, Ne, eq_zero_iff_irq_bits]
  simp [Block.pending]

/-- Settles O47: the writes are those of the register map, and the frame of a command keeps every pending bit. -/
theorem interruptRegistersAndLine : Obligations.InterruptRegistersAndLine := by
  refine ⟨fun s v rest hs => ⟨_, step_writeOf hs (by decide), rfl, fun q => pending_writeReg_irqPend q v s.blk⟩,
    fun s v rest hs => step_writeOf hs (by decide), fun i s t q ht hq => ?_, irqLine_iff⟩
  obtain ⟨u, hu, hf⟩ := exec_frame i s
  obtain rfl := Host.Outcome.next.inj (hu.symm.trans ht)
  exact hf.irqPend q.bit hq

end Sys2Proof.Machine

namespace Sys2Proof.Machine

/-! ## Reset (R270) -/

/-- STATUS reads 0 when every field of it holds the value with code 0 (R54). -/
theorem regRead_status_of_cleared {b : Block} (hp : b.phase = .idle) (hc : b.cause = .none) (hm : b.smode = .idle)
    (hr : b.sres = .none) (hh : b.held = false) (he : b.errcode = .none) : b.regRead 0x0C = 0 := by
  have hread : b.regRead 0x0C = b.status := rfl
  rw [hread, Block.status, Block.heldBit, hp, hc, hm, hr, hh, he]
  decide

section
variable (p : Params) (n : Nat)

/-- STATUS after reset (R54). -/
theorem regRead_status_reset : (Block.reset p n).regRead 0x0C = 0 :=
  regRead_status_of_cleared rfl rfl rfl rfl rfl rfl

/-- SCAN after reset: the target is empty and the cursor at its start (R55). -/
theorem regRead_scan_reset : (Block.reset p n).regRead 0x24 = 0 := regRead_scan_of_empty rfl rfl

/-- CRC_OUT after reset: CRC_REG is back at its initial value, whose complement is 0. -/
theorem regRead_crcOut_reset : (Block.reset p n).regRead 0x20 = 0 :=
  (regRead_crcOut _).trans (congrArg (BitVec.setWidth 32) crcFinal_crcInitial)

/-- The interrupt line after reset: no bit is pending (R248). -/
theorem irqLine_reset : (Block.reset p n).irqLine = false := by
  have hpend : (Block.reset p n).irqPend = 0 := rfl
  simp [Block.irqLine, hpend]

end

/-- A step whose stimulus is reset (R270, R271). -/
theorem step_reset {s : State} {rest : List Stimulus} (hs : s.script = .reset :: rest) :
    step s = .next (State.resetStep { s with script := rest }) := step_cons hs

/-- Settles O54: the step writes the table of R270, and each register reads its fields. -/
theorem resetWritesEveryElement : Obligations.ResetWritesEveryElement := by
  refine ⟨fun s rest hs => ⟨_, (Block.reset s.par s.chan.fresh).tgt, step_reset hs,
    ?block, ?status, ?scan, ?crcReg, ?crcOut, ?line⟩, ?powerOn⟩
  case block => rfl
  case status => exact regRead_status_reset _ _
  case scan => exact regRead_scan_reset _ _
  case crcReg => rfl
  case crcOut => exact regRead_crcOut_reset _ _
  case line => exact irqLine_reset _ _
  case powerOn => exact ⟨0, rfl⟩

/-- Settles O59: power-on is a reset, and every reset meets the invariant. -/
theorem resetMeetsTheInvariant : Obligations.ResetMeetsTheInvariant :=
  ⟨Block.reset_inv Config.params 0, Block.reset_inv⟩

end Sys2Proof.Machine
